-- ==== Sys2Proof/Word.lean ====
section
/-! DEFINITION. The word types of the block: the 64-bit command word (R56), the byte of a byte-wide bus (R43) and the
3-bit pixel (R18). -/

namespace Sys2Proof

/-- A command word: one 64-bit parallel word, bit 0 the least significant (R9, R43, R56). -/
abbrev Word64 := BitVec 64

/-- One byte of a command word carried over a byte-wide bus (R43). -/
abbrev Byte := BitVec 8

/-- A pixel: bit 0 red, bit 1 green, bit 2 blue, 1 = lit (R18). -/
abbrev Pixel := BitVec 3

end Sys2Proof
end

