-- ==== Sys2Proof/Syntax.lean ====
section
/-! DEFINITION. The commands of the block: one constructor per row of spec/opcode_table.json (R14, R61). -/

namespace Sys2Proof

/-- A command with its assembled operands (R60): the coordinates are the integers that the signed 16-bit fields
stand for. -/
inductive Instr where
  /-- `nop` (R123). -/
  | nop
  /-- `setpx x, y, color` (R71). -/
  | setpx (x y : Int) (color : Pixel)
  /-- `clrb` (R81). -/
  | clrb
  /-- `swap` (R83). -/
  | swap
  /-- `bright level` (R121). -/
  | bright (level : BitVec 8)
  deriving DecidableEq, Repr

end Sys2Proof
end

