-- ==== Sys2Proof/WellFormed.lean ====
section
/-! DEFINITION. Which commands have an encoding: coordinates must fit their signed 16-bit fields (R60, R64).
The other operands fit their fields by their type. -/

namespace Sys2Proof

/-- The range of a 16-bit two's-complement coordinate field (R60). -/
def coordFits (v : Int) : Bool := decide (-32768 ≤ v ∧ v ≤ 32767)

/-- Every operand is one that its field can hold. -/
def Instr.wellFormed : Instr → Bool
  | .nop => true
  | .setpx x y _ => coordFits x && coordFits y
  | .clrb => true
  | .swap => true
  | .bright _ => true

end Sys2Proof
end

