-- ==== Sys2Proof/Decode.lean ====
section
/-! DEFINITION. The command decoder (R56 to R63), total on all words and on any list of bytes, the encoder written from
the same formats (R57 to R60, R64), and the match and mask table of R61. -/

namespace Sys2Proof

/-- Why a word is illegal (R62). The block records the word, not the reason (R139). -/
inductive IllegalReason where
  /-- `OP` is one of the reserved values 0101 to 1111. -/
  | reservedOpcode
  /-- `OP` is legal and a reserved field is not zero. -/
  | reservedField
  deriving DecidableEq, Repr

/-- What a word decodes to. -/
inductive Decoded where
  | command (i : Instr)
  | illegal (r : IllegalReason)
  deriving DecidableEq, Repr

/-! ## Fields -/

/-- A word of `w` bits with `v` in its bits from `lo` up and 0 elsewhere. -/
def fieldAt {n : Nat} (w lo : Nat) (v : BitVec n) : BitVec w := v.setWidth w <<< lo

/-- Field `OP = w[3:0]`, in every format (R56). -/
def opField (w : Word64) : BitVec 4 := w.extractLsb' 0 4

/-- Field `COLOR = w[6:4]` of format P (R57). -/
def colorField (w : Word64) : Pixel := w.extractLsb' 4 3

/-- Field `X = w[31:16]` of format P (R57). -/
def xField (w : Word64) : BitVec 16 := w.extractLsb' 16 16

/-- Field `Y = w[47:32]` of format P (R57). -/
def yField (w : Word64) : BitVec 16 := w.extractLsb' 32 16

/-- Field `LEVEL = w[15:8]` of format L (R58). -/
def levelField (w : Word64) : BitVec 8 := w.extractLsb' 8 8

/-- Reserved field `Z` of format Z, `w[63:4]`, is zero (R59). -/
def zReservedZero (w : Word64) : Bool := w.extractLsb' 4 60 == 0#60

/-- Reserved fields `Z3 = w[63:48]` and `Z2 = w[15:7]` of format P are zero (R57). -/
def pReservedZero (w : Word64) : Bool := w.extractLsb' 48 16 == 0#16 && w.extractLsb' 7 9 == 0#9

/-- Reserved fields `Z3 = w[63:16]` and `Z1 = w[7:4]` of format L are zero (R58). -/
def lReservedZero (w : Word64) : Bool := w.extractLsb' 16 48 == 0#48 && w.extractLsb' 4 4 == 0#4

/-! ## The decoder -/

/-- A command whose reserved fields must be zero. -/
def commandIf (reservedZero : Bool) (i : Instr) : Decoded :=
  if reservedZero then .command i else .illegal .reservedField

/-- `Decode(w)` (R63). -/
def decode (w : Word64) : Decoded :=
  if opField w = 0b0000#4 then commandIf (zReservedZero w) .nop
  else if opField w = 0b0001#4 then
    commandIf (pReservedZero w) (.setpx (xField w).toInt (yField w).toInt (colorField w))
  else if opField w = 0b0010#4 then commandIf (zReservedZero w) .clrb
  else if opField w = 0b0011#4 then commandIf (zReservedZero w) .swap
  else if opField w = 0b0100#4 then commandIf (lReservedZero w) (.bright (levelField w))
  else .illegal .reservedOpcode

/-! ## The encoder -/

/-- The opcode values of R61. -/
def Instr.opcode : Instr → BitVec 4
  | .nop => 0b0000#4
  | .setpx _ _ _ => 0b0001#4
  | .clrb => 0b0010#4
  | .swap => 0b0011#4
  | .bright _ => 0b0100#4

/-- Format Z (R59): `OP` in bits 3:0. -/
def formatZ (op : BitVec 4) : Word64 := fieldAt 64 0 op

/-- Format P (R57): `Y` in bits 47:32, `X` in 31:16, `COLOR` in 6:4, `OP` in 3:0. -/
def formatP (x y : BitVec 16) (color : Pixel) (op : BitVec 4) : Word64 :=
  fieldAt 64 32 y ||| fieldAt 64 16 x ||| fieldAt 64 4 color ||| fieldAt 64 0 op

/-- Format L (R58): `LEVEL` in bits 15:8, `OP` in 3:0. -/
def formatL (level : BitVec 8) (op : BitVec 4) : Word64 := fieldAt 64 8 level ||| fieldAt 64 0 op

/-- The word of a command (R64). A coordinate is written in 16-bit two's complement. -/
def encode : Instr → Word64
  | .nop => formatZ (Instr.nop).opcode
  | .setpx x y color => formatP (BitVec.ofInt 16 x) (BitVec.ofInt 16 y) color (Instr.setpx x y color).opcode
  | .clrb => formatZ (Instr.clrb).opcode
  | .swap => formatZ (Instr.swap).opcode
  | .bright level => formatL level (Instr.bright level).opcode

/-! ## The match and mask table (R61) -/

/-- The `mask` column of R61, for the command of a constructor. -/
def Instr.mask : Instr → Word64
  | .nop => 0xFFFFFFFFFFFFFFFF#64
  | .setpx _ _ _ => 0xFFFF00000000FF8F#64
  | .clrb => 0xFFFFFFFFFFFFFFFF#64
  | .swap => 0xFFFFFFFFFFFFFFFF#64
  | .bright _ => 0xFFFFFFFFFFFF00FF#64

/-- The `match` column of R61, for the command of a constructor. -/
def Instr.matchBits : Instr → Word64
  | .nop => 0x0000000000000000#64
  | .setpx _ _ _ => 0x0000000000000001#64
  | .clrb => 0x0000000000000002#64
  | .swap => 0x0000000000000003#64
  | .bright _ => 0x0000000000000004#64

/-- The five commands of R61, each with zero operands: the rows of the table. -/
def opcodeRows : List Instr := [.nop, .setpx 0 0 0#3, .clrb, .swap, .bright 0#8]

/-- Word `w` is in the row of command `i` (R61). -/
def inRow (i : Instr) (w : Word64) : Bool := (w &&& i.mask) == i.matchBits

/-! ## A command word over a byte-wide bus (R43) -/

/-- Byte `k` carries bits `[8k+7:8k]`. -/
def byteOfWord (w : Word64) (k : Nat) : Byte := w.extractLsb' (8 * k) 8

/-- The eight bytes of a word, byte 0 first. -/
def bytesOfWord (w : Word64) : List Byte := (List.range 8).map (byteOfWord w)

/-- The word that the next eight bytes carry and the bytes after them. Fewer than eight bytes are no word yet: the
block acts only once all eight are assembled (DEDUCED, safe: log 14). -/
def assembleWord : List Byte → Option (Word64 × List Byte)
  | b0 :: b1 :: b2 :: b3 :: b4 :: b5 :: b6 :: b7 :: rest =>
    some (fieldAt 64 56 b7 ||| fieldAt 64 48 b6 ||| fieldAt 64 40 b5 ||| fieldAt 64 32 b4 ||| fieldAt 64 24 b3
      ||| fieldAt 64 16 b2 ||| fieldAt 64 8 b1 ||| fieldAt 64 0 b0, rest)
  | _ => none

/-- Decoding from bytes: nothing until a whole word has arrived. -/
def decodeBytes (bs : List Byte) : Option (Decoded × List Byte) :=
  (assembleWord bs).map fun p => (decode p.1, p.2)

/-! ## The host's table words -/

/-- The command word whose low `nbits` bits are those of `w` and whose other bits are 0. -/
def tableWord (nbits w : Nat) : Word64 := BitVec.ofNat 64 (w % 2 ^ nbits)

/-- What the decoder reads from a word of spec/opcode_table.json, bit 0 the least significant bit. A command word has 64
bits (R56), so a longer one is none (DESIGN CHOICE, safe: log 12). -/
def decodeTableWord (nbits w : Nat) : Option Instr :=
  if nbits ≤ 64 then
    match decode (tableWord nbits w) with
    | .command i => some i
    | .illegal _ => none
  else none

end Sys2Proof
end

