-- ==== Sys2Proof/Config.lean ====
section
/-! DEFINITION. The build configuration (R5), the quantities derived from it (R6) and its validity (R7).
The configuration is fixed for a machine: a state carries it and no step changes it
(DESIGN CHOICE, safe: log 1). -/

namespace Sys2Proof

/-- The parameters of the block (R5). `tSettle` and `tVisible` are lower bounds on time, read by
`Machine/Timing.lean` only. -/
structure Config where
  panelWidth  : Nat
  panelHeight : Nat
  nHor        : Nat
  nVer        : Nat
  maxDuty     : Nat
  brightReset : BitVec 8
  tSettle     : Nat
  tVisible    : Nat
  deriving DecidableEq, Repr

namespace Config

/-- `N_PANELS` (R6). -/
def nPanels (c : Config) : Nat := c.nHor * c.nVer

/-- `PHY_HEIGHT` (R6). -/
def phyHeight (c : Config) : Nat := c.panelHeight

/-- `PHY_WIDTH` (R6). -/
def phyWidth (c : Config) : Nat := c.panelWidth * c.nPanels

/-- `LOG_WIDTH` (R6). -/
def logWidth (c : Config) : Nat := c.panelWidth * c.nHor

/-- `LOG_HEIGHT` (R6). -/
def logHeight (c : Config) : Nat := c.panelHeight * c.nVer

/-- `SCAN_ROWS` (R6). -/
def scanRows (c : Config) : Nat := c.panelHeight / 4

/-- `NCOLS` (R6). -/
def ncols (c : Config) : Nat := c.panelWidth * c.nPanels * 2

/-- `CfgValid` (R7), its conjuncts in the rule's order. R5 gives `T_VISIBLE` the legal values `> 0` and cites R7, which has
no such conjunct: the check does not look at `tVisible`, so 0 is let through (DESIGN CHOICE, unsafe for a claim that such a block runs: log 15). -/
def valid (c : Config) : Bool :=
  decide (1 ≤ c.panelWidth ∧ 1 ≤ c.panelHeight ∧ 1 ≤ c.nHor ∧ 1 ≤ c.nVer
    ∧ c.panelHeight % 4 = 0
    ∧ c.scanRows ≤ 8
    ∧ c.logWidth ≤ 32768 ∧ c.logHeight ≤ 32768
    ∧ 1 ≤ c.maxDuty)

end Config
end Sys2Proof
end

