-- ==== Sys2Proof/Machine/Build.lean ====
section
/-! DEFINITION. The configuration of the machine that `State.reset` resets. The spec leaves every value of it to the
implementer (R5): DESIGN CHOICE, assumption log 2. Statements speak of `State.resetOf c` for every configuration `c`. -/

namespace Sys2Proof

/-- Configuration A of 95_test_vectors.md part 2, with `MAX_DUTY` and `BRIGHT_RESET` as its parts 2 and 3 take them.
DESIGN CHOICE (log 2): unsafe for a claim about this one machine, none for a claim about every configuration. -/
def Config.build : Config :=
  { panelWidth := 4, panelHeight := 8, nHor := 2, nVer := 2, maxDuty := 255, brightReset := 0#8,
    tSettle := 0, tVisible := 1 }

end Sys2Proof
end

