-- ==== Sys2Proof/Machine/State.lean ====
section
/-! DEFINITION. The state of the block (R16), the configuration it was built with and the inputs that stand outside it
(the host program, R32; the turns of the interleaving, R11; `rst`, R156), the reasons a step can stop, and the state
after reset (R33, R157). -/

namespace Sys2Proof.Machine

/-! ## Frame store (R17) -/

/-- One listed cell of a frame buffer: its row, its column and its pixel. -/
structure PixelCell where
  y  : Nat
  x  : Nat
  px : Pixel
  deriving DecidableEq, Repr

/-- One frame buffer: the cells that do not hold `unlistedPixel`, row by row and in a row by column
(DESIGN CHOICE, safe: log 8). -/
abbrev Buffer := List PixelCell

/-- What a cell that is not listed holds: 0, the reset value of every cell (R33). -/
def unlistedPixel : Pixel := 0#3

/-- The two frame buffers `FB[0]` and `FB[1]` (R17). -/
structure Memory where
  fb0 : Buffer
  fb1 : Buffer
  deriving DecidableEq, Repr

/-- The order of the cells in a buffer. -/
def PixelCell.before (a b : PixelCell) : Bool := decide (a.y < b.y ∨ (a.y = b.y ∧ a.x < b.x))

/-- The canonical form: cells strictly rising, none holding what an unlisted cell holds. -/
def Buffer.canonical : Buffer → Bool
  | [] => true
  | c :: cs => cs.all c.before && c.px != unlistedPixel && Buffer.canonical cs

/-- Both buffers are in canonical form, so equal frame stores are equal data. -/
def Memory.wf (m : Memory) : Bool := Buffer.canonical m.fb0 && Buffer.canonical m.fb1

/-- The cell exists in a buffer of configuration `c` (R17). -/
def PixelCell.exists (c : Config) (p : PixelCell) : Bool := decide (p.y < c.phyHeight ∧ p.x < c.phyWidth)

/-- No cell outside the buffers' bounds is listed (R17). -/
def Memory.bounded (c : Config) (m : Memory) : Bool :=
  m.fb0.all (PixelCell.exists c) && m.fb1.all (PixelCell.exists c)

/-! ## Sequencer phases, turns, fault causes -/

/-- The engine's sequencer phase (R24); the codes 11 to 14 have no name (DEDUCED, safe: log 11). -/
inductive Phase where
  | disable | frameSync | settle | rowsel | shiftData | clkHi | clkLo | latHi | latLo | enable | hold | cfgHalt
  deriving DecidableEq, Repr

/-- One turn of the interleaving (R11): the host's, the engine's, or a step in which `rst` is asserted (R156). -/
inductive Turn where
  | host | engine | rst
  deriving DecidableEq, Repr

/-- What a step is (R11, R156): the host's, the engine's, one in which `rst` is asserted, or the release of `rst`. -/
inductive Mover where
  | host | engine | reset | release
  deriving DecidableEq, Repr

/-- The fault causes and what each records (R136). -/
inductive FaultCause where
  | config
  | illegalCommand (w : Word64)
  | internalConsistency
  deriving DecidableEq, Repr

/-! ## The state -/

/-- The state of the block (R16), with the configuration it was built with and the inputs from outside it. -/
structure State where
  /-- The build configuration (R5, R32); no step changes it. -/
  cfg : Config
  /-- The frame store `FB` (R17). -/
  mem : Memory
  /-- `FRONT_SEL` (R19). -/
  frontSel : Bool
  /-- `SWAP_PENDING` (R20). -/
  swapPending : Bool
  /-- `BRIGHT` (R21). -/
  bright : BitVec 8
  /-- `CFG_FAULT` (R22). -/
  cfgFault : Bool
  /-- `ILL_CMD` (R22). -/
  illCmd : Bool
  /-- `INT_FAULT` (R22). -/
  intFault : Bool
  /-- `BAD_CMD` (R31). -/
  badCmd : Word64
  /-- `PHASE` (R23, R24). -/
  phase : Phase
  /-- `ROW` (R23). -/
  row : BitVec 3
  /-- `COL` (R23). -/
  col : Nat
  /-- `OE_EN` (R25). -/
  oeEn : Bool
  /-- `COLOR_UP` (R28). -/
  colorUp : Pixel
  /-- `COLOR_LO` (R28). -/
  colorLo : Pixel
  /-- `ADDR` (R28). -/
  addr : BitVec 3
  /-- `CLK_R` (R28). -/
  clkR : Bool
  /-- `LAT_R` (R28). -/
  latR : Bool
  /-- `CI`, the host agent's command index (R29). -/
  ci : Nat
  /-- The host program `P` (R29, R32): input, from outside the block. -/
  program : List Word64
  /-- The coming turns of the interleaving (R11) and of `rst` (R156): input. When none is left the host goes first
  (DESIGN CHOICE, unsafe for claims past the last turn: log 3). -/
  turns : List Turn
  /-- The level of the input `rst`, 1 = asserted (R156). -/
  rst : Bool
  deriving DecidableEq, Repr

/-- Why the machine stops. -/
inductive Fault where
  /-- Raised by `step` when neither agent has an enabled step and `rst` is not asserted: the block is stuck (R10), as it
  is under an invalid configuration (R106, R138). DEDUCED, safe (log 7): the spec gives the block no step there. -/
  | noEnabledStep
  deriving DecidableEq, Repr

/-- Why an instruction has no meaning. -/
inductive Refusal where
  /-- Raised by `exec` for an instruction with no meaning yet; no arm of it is. Safe. -/
  | notModelled (mnemonic : String)
  deriving DecidableEq, Repr

/-! ## Reset -/

/-- Every cell of both buffers holds 0 (R33). -/
def Memory.blank : Memory := { fb0 := [], fb1 := [] }

/-- The state after reset of a block built with configuration `c` (R33, R157), with no host program, no turn
given and `rst` released. -/
def State.resetOf (c : Config) : State :=
  { cfg := c
    mem := Memory.blank
    frontSel := false
    swapPending := false
    bright := c.brightReset
    cfgFault := !c.valid
    illCmd := false
    intFault := false
    badCmd := 0#64
    phase := if c.valid then .disable else .cfgHalt
    row := 0#3
    col := 0
    oeEn := false
    colorUp := 0#3
    colorLo := 0#3
    addr := 0#3
    clkR := false
    latR := false
    ci := 0
    program := []
    turns := []
    rst := false }

/-- The machine right after reset, built with `Config.build`. -/
def State.reset : State := State.resetOf Config.build

end Sys2Proof.Machine
end

