-- ==== Sys2Proof/Machine/Operands.lean ====
section
/-! DEFINITION. Address computation: the pixel write's bounds checks and mapping (R71 to R76) and the serializer's
addressing (R97). -/

namespace Sys2Proof.Machine

/-- A cell's position in a buffer: column `x`, row `y`, as R72 returns `(phys_x, phys_y)`. -/
structure Pos where
  x : Nat
  y : Nat
  deriving DecidableEq, Repr

/-- The logical bounds check, on signed coordinates (R73). -/
def inLogicalGrid (c : Config) (x y : Int) : Bool :=
  decide (0 ≤ x ∧ x < (c.logWidth : Int) ∧ 0 ≤ y ∧ y < (c.logHeight : Int))

/-- `Map(x, y)` (R72). -/
def mapPos (c : Config) (x y : Nat) : Pos :=
  { x := (y / c.panelHeight * c.nHor + x / c.panelWidth) * c.panelWidth + x % c.panelWidth
    y := y % c.panelHeight }

/-- `Unmap(px, py)` (R76). -/
def unmapPos (c : Config) (p : Pos) : Pos :=
  { x := p.x / c.panelWidth % c.nHor * c.panelWidth + p.x % c.panelWidth
    y := p.x / c.panelWidth / c.nHor * c.panelHeight + p.y }

/-- The position is inside a physical buffer (R17, R74, R99). -/
def inPhysical (c : Config) (p : Pos) : Bool := decide (p.x < c.phyWidth ∧ p.y < c.phyHeight)

/-- The two fetches of one column step: column `fx`, upper row `yu`, lower row `yl` (R97). -/
structure FetchAddr where
  fx : Nat
  yu : Nat
  yl : Nat
  deriving DecidableEq, Repr

/-- The upper row of a column step (R97). -/
def upperRow (c : Config) (row col : Nat) : Nat :=
  if col / c.panelWidth % 2 = 0 then row + c.scanRows else row

/-- `ShiftAddr(row, col)` (R97). -/
def shiftAddr (c : Config) (row col : Nat) : FetchAddr :=
  { fx := col / c.panelWidth / 2 * c.panelWidth + col % c.panelWidth
    yu := upperRow c row col
    yl := upperRow c row col + 2 * c.scanRows }

end Sys2Proof.Machine
end

