-- ==== Sys2Proof/Machine/Ops.lean ====
section
/-! DEFINITION. The named operations over the frame store (R10, R17, R19, R99) and the registers: accepting a word (R29),
raising a fault (R137). Raising a fault is the block's only exception entry: it sets a sticky bit and transfers no control
(R145). There is no return from it (R146): only reset clears a fault bit. -/

namespace Sys2Proof.Machine

/-! ## One buffer -/

/-- The pixel of cell `(y, x)`. -/
def Buffer.read : Buffer → Nat → Nat → Pixel
  | [], _, _ => unlistedPixel
  | c :: cs, y, x => if c.y = y ∧ c.x = x then c.px else Buffer.read cs y x

/-- The buffer with cell `(y, x)` no longer listed. -/
def Buffer.erase (b : Buffer) (y x : Nat) : Buffer := b.filter fun c => !decide (c.y = y ∧ c.x = x)

/-- The buffer with `p` listed before the first cell that comes after it. -/
def Buffer.insert (p : PixelCell) : Buffer → Buffer
  | [] => [p]
  | c :: cs => if p.before c then p :: c :: cs else c :: Buffer.insert p cs

/-- The buffer with pixel `v` in cell `(y, x)`. -/
def Buffer.write (b : Buffer) (y x : Nat) (v : Pixel) : Buffer :=
  if v = unlistedPixel then Buffer.erase b y x
  else Buffer.insert { y := y, x := x, px := v } (Buffer.erase b y x)

/-! ## The frame store -/

/-- `FB[b]`, for `b` the one-bit buffer number (R17). -/
def Memory.buffer (m : Memory) (b : Bool) : Buffer := if b then m.fb1 else m.fb0

/-- The frame store with `FB[b]` replaced. -/
def Memory.setBuffer (m : Memory) (b : Bool) (buf : Buffer) : Memory :=
  if b then { m with fb1 := buf } else { m with fb0 := buf }

/-- `FB[b][y][x]` (R10). -/
def Memory.read (m : Memory) (b : Bool) (y x : Nat) : Pixel := Buffer.read (m.buffer b) y x

/-- `FB[b][y][x] <- v` (R10). -/
def Memory.write (m : Memory) (b : Bool) (y x : Nat) (v : Pixel) : Memory :=
  m.setBuffer b (Buffer.write (m.buffer b) y x v)

/-- Every cell of `FB[b]` written 0, in one step (R81). -/
def Memory.clear (m : Memory) (b : Bool) : Memory := m.setBuffer b []

/-- `FBRead(b, y, x)`: the engine's guarded fetch, 0 outside the buffer (R99). -/
def fbRead (c : Config) (m : Memory) (b : Bool) (y x : Nat) : Pixel :=
  if inPhysical c { x := x, y := y } then m.read b y x else 0#3

/-! ## Registers -/

/-- The number of the back buffer, `1 - FRONT_SEL` (R19). -/
def State.backSel (s : State) : Bool := !s.frontSel

/-- `CI <- CI + 1`: the accepted word is consumed (R29). -/
def State.advance (s : State) : State := { s with ci := s.ci + 1 }

/-- The state with another frame store. -/
def State.setMem (s : State) (m : Memory) : State := { s with mem := m }

/-- The current turn is over. -/
def State.popTurn (s : State) : State := { s with turns := s.turns.tail }

/-- `raise Fault(cause, info)` (R137): a sticky bit is set; `BAD_CMD` keeps the first illegal word. -/
def State.raiseFault (s : State) : FaultCause → State
  | .config => { s with cfgFault := true }
  | .illegalCommand w => { s with illCmd := true, badCmd := if s.illCmd then s.badCmd else w }
  | .internalConsistency => { s with intFault := true }

/-- The cause's code (R136); no register holds it. -/
def FaultCause.code : FaultCause → Nat
  | .config => 1
  | .illegalCommand _ => 2
  | .internalConsistency => 3

end Sys2Proof.Machine
end

