-- ==== Sys2Proof/Machine/Control.lean ====
section
/-! DEFINITION. The control commands `bright` (R121) and `nop` (R123), and the acceptance of an illegal word (R139). -/

namespace Sys2Proof.Machine

/-- `BRIGHT level` (R121). -/
def execBright (level : BitVec 8) (s : State) : Host.Outcome State Fault Refusal :=
  .next { s with bright := level }.advance

/-- `NOP` (R123): no state changes except `CI`. -/
def execNop (s : State) : Host.Outcome State Fault Refusal := .next s.advance

/-- `Execute(ILLEGAL(w))` (R63, R139): the word is not executed, the fault is raised and `CI` passes the word. -/
def acceptIllegal (w : Word64) (s : State) : State := (s.raiseFault (.illegalCommand w)).advance

end Sys2Proof.Machine
end

