-- ==== Sys2Proof/Machine/Frame.lean ====
section
/-! DEFINITION. The frame-lifecycle commands `clrb` (R81) and `swap` (R83). -/

namespace Sys2Proof.Machine

/-- `CLRB` (R81): every cell of the back buffer is 0, in one step. -/
def execClrb (s : State) : Host.Outcome State Fault Refusal :=
  .next (s.setMem (s.mem.clear s.backSel)).advance

/-- `SWAP` (R83): the exchange is requested; the engine performs it at `FRAME_SYNC` (R93). -/
def execSwap (s : State) : Host.Outcome State Fault Refusal :=
  .next { s with swapPending := true }.advance

end Sys2Proof.Machine
end

