-- ==== Sys2Proof/Machine/Mapper.lean ====
section
/-! DEFINITION. The pixel write `setpx` (R71). -/

namespace Sys2Proof.Machine

/-- `FB[1 - FRONT_SEL][p.y][p.x] <- color`, after the physical bounds check, which raises `INTERNAL_CONSISTENCY` and
suppresses the write when it fails (R74, R140). -/
def State.writeBack (s : State) (p : Pos) (color : Pixel) : State :=
  if inPhysical s.cfg p then s.setMem (s.mem.write s.backSel p.y p.x color)
  else s.raiseFault .internalConsistency

/-- `SETPX x, y, color` (R71): outside the logical grid nothing is written and no fault is raised (R73). -/
def execSetpx (x y : Int) (color : Pixel) (s : State) : Host.Outcome State Fault Refusal :=
  if inLogicalGrid s.cfg x y then .next (s.writeBack (mapPos s.cfg x.toNat y.toNat) color).advance
  else .next s.advance

end Sys2Proof.Machine
end

