-- ==== Sys2Proof/Machine/Dispatch.lean ====
section
/-! DEFINITION. `Execute` (R63): one arm per command. -/

namespace Sys2Proof.Machine

def exec (i : Instr) (s : State) : Host.Outcome State Fault Refusal :=
  match i with
  | .nop => Sys2Proof.Machine.execNop s
  | .setpx x y color => Sys2Proof.Machine.execSetpx x y color s
  | .clrb => Sys2Proof.Machine.execClrb s
  | .swap => Sys2Proof.Machine.execSwap s
  | .bright level => Sys2Proof.Machine.execBright level s

end Sys2Proof.Machine
end

