-- ==== Sys2Proof/Machine/Engine.lean ====
section
/-! DEFINITION. The refresh engine: one definition per engine step (R92 to R105), chosen by `PHASE` (R24, R91). -/

namespace Sys2Proof.Machine

/-- `PHASE == DISABLE` (R92). -/
def engineDisable (s : State) : State :=
  { s with oeEn := false, phase := if s.row = 0#3 then .frameSync else .settle }

/-- `PHASE == FRAME_SYNC` (R93): a pending swap is performed, the role and the request in one step. -/
def engineFrameSync (s : State) : State :=
  if s.swapPending then { s with frontSel := !s.frontSel, swapPending := false, phase := .settle }
  else { s with phase := .settle }

/-- `PHASE == SETTLE` (R94). -/
def engineSettle (s : State) : State := { s with phase := .rowsel }

/-- `PHASE == ROWSEL` (R95). -/
def engineRowsel (s : State) : State := { s with addr := s.row, col := 0, phase := .shiftData }

/-- The fetch address of the current column step (R96, R97). -/
def State.fetchAddr (s : State) : FetchAddr := shiftAddr s.cfg s.row.toNat s.col

/-- `PHASE == SHIFT_DATA` (R96): both colour lanes are driven from the front buffer in one step. -/
def engineShiftData (s : State) : State :=
  { s with
    colorUp := fbRead s.cfg s.mem s.frontSel s.fetchAddr.yu s.fetchAddr.fx
    colorLo := fbRead s.cfg s.mem s.frontSel s.fetchAddr.yl s.fetchAddr.fx
    phase := .clkHi }

/-- `PHASE == CLK_HI` (R100). -/
def engineClkHi (s : State) : State := { s with clkR := true, phase := .clkLo }

/-- `PHASE == CLK_LO` (R101). -/
def engineClkLo (s : State) : State :=
  if s.col + 1 < s.cfg.ncols then { s with clkR := false, col := s.col + 1, phase := .shiftData }
  else { s with clkR := false, phase := .latHi }

/-- `PHASE == LAT_HI` (R102). -/
def engineLatHi (s : State) : State := { s with latR := true, phase := .latLo }

/-- `PHASE == LAT_LO` (R103). -/
def engineLatLo (s : State) : State := { s with latR := false, phase := .enable }

/-- `PHASE == ENABLE` (R104). -/
def engineEnable (s : State) : State := { s with oeEn := true, phase := .hold }

/-- The sub-row after the current one (R105). -/
def State.nextRow (s : State) : BitVec 3 := if s.row.toNat + 1 = s.cfg.scanRows then 0#3 else s.row + 1#3

/-- `PHASE == HOLD` (R105). -/
def engineHold (s : State) : State := { s with row := s.nextRow, phase := .disable }

/-- The engine has a step in every phase but `CFG_HALT` (R106). -/
def State.engineEnabled (s : State) : Bool := s.phase != .cfgHalt

/-- One engine step (R91). In `CFG_HALT` there is none, so the state stays; `step` never calls it there. -/
def engineStep (s : State) : State :=
  match s.phase with
  | .disable => engineDisable s
  | .frameSync => engineFrameSync s
  | .settle => engineSettle s
  | .rowsel => engineRowsel s
  | .shiftData => engineShiftData s
  | .clkHi => engineClkHi s
  | .clkLo => engineClkLo s
  | .latHi => engineLatHi s
  | .latLo => engineLatLo s
  | .enable => engineEnable s
  | .hold => engineHold s
  | .cfgHalt => s

/-- `n` engine steps with no host step between them: the count of R107 is in the engine's own steps. -/
def engineRun : Nat → State → State
  | 0, s => s
  | n + 1, s => engineRun n (engineStep s)

end Sys2Proof.Machine
end

