-- ==== Sys2Proof/Machine/Reset.lean ====
section
/-! DEFINITION. The reset input (R156 to R158), at any time. -/

namespace Sys2Proof.Machine

/-- Every register and both buffers at their reset values (R33, R156), `CI` at the host's first word, the configuration
checked again (R157). The inputs stay: the host program, the coming turns and the level of `rst`. -/
def State.afterReset (s : State) : State :=
  { State.resetOf s.cfg with program := s.program, turns := s.turns, rst := s.rst }

/-- The step now due is one in which `rst` is asserted: that is a turn of its own (DESIGN CHOICE, unsafe for claims about
the host after a reset within a run: log 4). -/
def State.resetDue (s : State) : Bool := s.turns.head? == some .rst

/-- `rst` is asserted, or stays so: every piece of state takes its reset value (R156, R158). -/
def State.enterReset (s : State) : State := { s.popTurn.afterReset with rst := true }

/-- `rst` is released: the state holds the reset values, and both agents may step from now on (R156, R160). -/
def State.leaveReset (s : State) : State := { s with rst := false }

end Sys2Proof.Machine
end

