-- ==== Sys2Proof/Machine/HostPort.lean ====
section
/-! DEFINITION. The command port (R29, R84), the host step, and which agent the next step belongs to (R11). -/

namespace Sys2Proof.Machine

/-- `P[CI]`, the word the host offers; none when the host program is finished (R29). -/
def State.offeredWord (s : State) : Option Word64 := s.program[s.ci]?

/-- `cmd_valid`: the host offers a word (R29). -/
def State.cmdValid (s : State) : Bool := s.offeredWord.isSome

/-- `cmd_ready = not CFG_FAULT and not SWAP_PENDING and not in reset` (R29). The hold is checked here and not in the
commands (DEDUCED, safe: log 6). -/
def State.cmdReady (s : State) : Bool := !s.cfgFault && !s.swapPending && !s.rst

/-- The host has a step: a word is offered and the port accepts it (R29). -/
def State.hostEnabled (s : State) : Bool := s.cmdValid && s.cmdReady

/-- The effect of an accepted word (R63, R139). -/
def acceptWord (w : Word64) (s : State) : Host.Outcome State Fault Refusal :=
  match decode w with
  | .command i => exec i s
  | .illegal _ => .next (acceptIllegal w s)

/-- The host step, run only when it is enabled (R29). -/
def hostStep (s : State) : Host.Outcome State Fault Refusal :=
  match s.offeredWord with
  | some w => acceptWord w s
  | none => .fault .noEnabledStep

/-- `a` when it is enabled, else `b` when that is, else nobody. -/
def firstEnabled (a b : Mover × Bool) : Option Mover :=
  if a.2 then some a.1 else if b.2 then some b.1 else none

/-- The agent that steps next. A turn whose agent has no enabled step goes to the other agent (R10: the agent waits);
without a turn of an agent the host is asked first (DESIGN CHOICE, unsafe for claims past the last turn: log 3). -/
def State.agentMover (s : State) : Option Mover :=
  match s.turns.head? with
  | some .engine => firstEnabled (.engine, s.engineEnabled) (.host, s.hostEnabled)
  | some .host => firstEnabled (.host, s.hostEnabled) (.engine, s.engineEnabled)
  | some .rst => firstEnabled (.host, s.hostEnabled) (.engine, s.engineEnabled)
  | none => firstEnabled (.host, s.hostEnabled) (.engine, s.engineEnabled)

/-- What the next step is. While `rst` is asserted no agent steps (R156): it stays asserted or is released. -/
def State.mover (s : State) : Option Mover :=
  if s.resetDue then some .reset else if s.rst then some .release else s.agentMover

/-- The program with `w` as its word `k`. -/
def placeWord (p : List Word64) (k : Nat) (w : Word64) : List Word64 :=
  p.take k ++ List.replicate (k - p.length) 0#64 ++ w :: p.drop (k + 1)

/-- The turns with the host's step first. -/
def hostFirst : List Turn → List Turn
  | [] => []
  | .host :: ts => .host :: ts
  | .engine :: ts => .host :: .engine :: ts
  | .rst :: ts => .host :: .rst :: ts

end Sys2Proof.Machine
end

