-- ==== Sys2Proof/Machine/Step.lean ====
section
/-! DEFINITION. One step of the machine: one atomic step of one agent (R11), or one of the input `rst` (R156). -/

namespace Sys2Proof.Machine

/-- One step. -/
def step (s : State) : Host.Outcome State Fault Refusal :=
  match s.mover with
  | some .reset => .next s.enterReset
  | some .release => .next s.leaveReset
  | some .engine => .next (engineStep s.popTurn)
  | some .host => hostStep s.popTurn
  | none => .fault .noEnabledStep

/-- `s` with a word of the opcode table as `P[CI]`, the port ready and the host's step next: the next step accepts it
(DESIGN CHOICE, safe: log 5). -/
def State.withFetchWord (s : State) (nbits w : Nat) : State :=
  { s with
    program := placeWord s.program s.ci (tableWord nbits w)
    cfgFault := false
    swapPending := false
    rst := false
    turns := hostFirst s.turns }

end Sys2Proof.Machine
end

