-- ==== Sys2Proof/Machine/Assembler.lean ====
section
/-! DEFINITION. The assembler (R64, R65): from a line of text, as a list of characters, to a command word. -/

namespace Sys2Proof.Machine

/-- Why a line is an assembly error: no word is produced for it (R64). -/
inductive AsmError where
  | unknownMnemonic
  | operandCount
  | badInteger
  | outOfRange
  deriving DecidableEq, Repr

/-- What a line assembles to. -/
inductive AsmResult where
  /-- The line holds no command: it is blank or only a comment. -/
  | empty
  /-- A command, through its mnemonic or a pseudo-instruction. -/
  | command (i : Instr)
  /-- `.word64`: the word itself, legal or not. -/
  | raw (w : Word64)
  | error (e : AsmError)
  deriving DecidableEq, Repr

/-! ## Characters and tokens -/

/-- Blanks between tokens: space, tab and carriage return (DESIGN CHOICE, unsafe for claims about such texts: log 9). -/
def isBlank (c : Char) : Bool := c == ' ' || c == '\t' || c == '\r'

/-- The line without its comment: `;` starts a comment that runs to the end of the line. -/
def stripComment (cs : List Char) : List Char := cs.takeWhile fun c => !(c == ';')

/-- The text without blanks at either end. -/
def trimBlanks (cs : List Char) : List Char := ((cs.dropWhile isBlank).reverse.dropWhile isBlank).reverse

/-- The pieces between commas. -/
def splitCommas : List Char → List (List Char)
  | [] => [[]]
  | c :: cs =>
    match splitCommas cs with
    | [] => [[c]]
    | p :: ps => if c == ',' then [] :: p :: ps else (c :: p) :: ps

/-- The operands of a command: none when nothing follows the mnemonic. -/
def operandsOf (cs : List Char) : List (List Char) :=
  if (trimBlanks cs).isEmpty then [] else (splitCommas cs).map trimBlanks

/-! ## Integers -/

/-- The value of a decimal digit. -/
def decDigit (c : Char) : Option Nat :=
  if 48 ≤ c.toNat ∧ c.toNat ≤ 57 then some (c.toNat - 48) else none

/-- The value of a hexadecimal digit, in either case (DESIGN CHOICE, unsafe for claims about such texts: log 9). -/
def hexDigit (c : Char) : Option Nat :=
  if 97 ≤ c.toNat ∧ c.toNat ≤ 102 then some (c.toNat - 87)
  else if 65 ≤ c.toNat ∧ c.toNat ≤ 70 then some (c.toNat - 55)
  else decDigit c

/-- Digits in base `base`, continuing the number `acc`. -/
def digitsFrom (base : Nat) (digit : Char → Option Nat) : Nat → List Char → Option Nat
  | acc, [] => some acc
  | acc, c :: cs =>
    match digit c with
    | some d => digitsFrom base digit (acc * base + d) cs
    | none => none

/-- At least one digit. -/
def number (base : Nat) (digit : Char → Option Nat) (cs : List Char) : Option Nat :=
  if cs.isEmpty then none else digitsFrom base digit 0 cs

/-- A decimal integer with an optional `-`, or a hexadecimal one with a `0x` prefix (R64). -/
def parseInt : List Char → Option Int
  | '-' :: cs => (number 10 decDigit cs).map fun n => -(n : Int)
  | '0' :: 'x' :: cs => (number 16 hexDigit cs).map fun n => (n : Int)
  | cs => (number 10 decDigit cs).map fun n => (n : Int)

/-- The colour names of R64, as the values of R18. -/
def colorNames : List (List Char × Pixel) :=
  [(['b', 'l', 'a', 'c', 'k'], 0#3),
   (['r', 'e', 'd'], 1#3),
   (['g', 'r', 'e', 'e', 'n'], 2#3),
   (['y', 'e', 'l', 'l', 'o', 'w'], 3#3),
   (['b', 'l', 'u', 'e'], 4#3),
   (['m', 'a', 'g', 'e', 'n', 't', 'a'], 5#3),
   (['c', 'y', 'a', 'n'], 6#3),
   (['w', 'h', 'i', 't', 'e'], 7#3)]

/-- An integer operand in a range; out of it is an assembly error (R64). -/
def parseRange (lo hi : Int) (cs : List Char) : Except AsmError Int :=
  match parseInt cs with
  | some v => if lo ≤ v ∧ v ≤ hi then .ok v else .error .outOfRange
  | none => .error .badInteger

/-- A coordinate operand. -/
def parseCoord (cs : List Char) : Except AsmError Int := parseRange (-32768) 32767 cs

/-- A colour operand: a name or a number 0 to 7. -/
def parseColor (cs : List Char) : Except AsmError Pixel :=
  match colorNames.lookup cs with
  | some p => .ok p
  | none => (parseRange 0 7 cs).map fun v => BitVec.ofInt 3 v

/-- A level operand. -/
def parseLevel (cs : List Char) : Except AsmError (BitVec 8) :=
  (parseRange 0 255 cs).map fun v => BitVec.ofInt 8 v

/-- The operand of `.word64`: any 64-bit value. -/
def parseWord (cs : List Char) : Except AsmError Word64 :=
  (parseRange 0 18446744073709551615 cs).map fun v => BitVec.ofInt 64 v

/-! ## Commands and pseudo-instructions -/

/-- The pseudo-instructions (R65). -/
inductive Pseudo where
  | blank
  | full
  | clrpx (x y : Int)
  deriving DecidableEq, Repr

/-- The one command each expands to (R65). -/
def Pseudo.expand : Pseudo → Instr
  | .blank => .bright 0#8
  | .full => .bright 255#8
  | .clrpx x y => .setpx x y 0#3

/-- A mnemonic without operands. -/
def noOperands (i : Instr) : List (List Char) → AsmResult
  | [] => .command i
  | _ :: _ => .error .operandCount

/-- `setpx x, y, color`. -/
def asmSetpx : List (List Char) → AsmResult
  | [a, b, c] =>
    match parseCoord a, parseCoord b, parseColor c with
    | .ok x, .ok y, .ok p => .command (.setpx x y p)
    | .error e, _, _ => .error e
    | .ok _, .error e, _ => .error e
    | .ok _, .ok _, .error e => .error e
  | _ => .error .operandCount

/-- `clrpx x, y`. -/
def asmClrpx : List (List Char) → AsmResult
  | [a, b] =>
    match parseCoord a, parseCoord b with
    | .ok x, .ok y => .command (Pseudo.clrpx x y).expand
    | .error e, _ => .error e
    | .ok _, .error e => .error e
  | _ => .error .operandCount

/-- `bright level`. -/
def asmBright : List (List Char) → AsmResult
  | [a] =>
    match parseLevel a with
    | .ok l => .command (.bright l)
    | .error e => .error e
  | _ => .error .operandCount

/-- `.word64 v`. -/
def asmWord : List (List Char) → AsmResult
  | [a] =>
    match parseWord a with
    | .ok w => .raw w
    | .error e => .error e
  | _ => .error .operandCount

/-- A mnemonic with its operands (R64, R65). -/
def asmCommand (mnemonic : List Char) (ops : List (List Char)) : AsmResult :=
  if mnemonic = ['n', 'o', 'p'] then noOperands .nop ops
  else if mnemonic = ['s', 'e', 't', 'p', 'x'] then asmSetpx ops
  else if mnemonic = ['c', 'l', 'r', 'b'] then noOperands .clrb ops
  else if mnemonic = ['s', 'w', 'a', 'p'] then noOperands .swap ops
  else if mnemonic = ['b', 'r', 'i', 'g', 'h', 't'] then asmBright ops
  else if mnemonic = ['b', 'l', 'a', 'n', 'k'] then noOperands (Pseudo.blank).expand ops
  else if mnemonic = ['f', 'u', 'l', 'l'] then noOperands (Pseudo.full).expand ops
  else if mnemonic = ['c', 'l', 'r', 'p', 'x'] then asmClrpx ops
  else if mnemonic = ['.', 'w', 'o', 'r', 'd', '6', '4'] then asmWord ops
  else .error .unknownMnemonic

/-- A line without its comment and outer blanks. -/
def asmTokens (cs : List Char) : AsmResult :=
  if cs.isEmpty then .empty
  else asmCommand (cs.takeWhile fun c => !isBlank c) (operandsOf (cs.dropWhile fun c => !isBlank c))

/-- One line of assembly text (R64). -/
def assembleLine (line : List Char) : AsmResult := asmTokens (trimBlanks (stripComment line))

/-- The word a result produces; none for an empty line or an error. -/
def AsmResult.word : AsmResult → Option Word64
  | .empty => none
  | .command i => some (encode i)
  | .raw w => some w
  | .error _ => none

/-- The lines of a text. -/
def splitLines : List Char → List (List Char)
  | [] => [[]]
  | c :: cs =>
    match splitLines cs with
    | [] => [[c]]
    | l :: ls => if c == '\n' then [] :: l :: ls else (c :: l) :: ls

/-- The words of a text, in order: one for each line that holds a command (R64). -/
def assemble (text : List Char) : List Word64 := (splitLines text).filterMap fun l => (assembleLine l).word

end Sys2Proof.Machine
end

