-- ==== Sys2Proof/Machine/Timing.lean ====
section
/-! DEFINITION. The timing contract of the two delay steps (R94, R105, R148), as lower bounds beside the machine: no step
reads a time (R11). -/

namespace Sys2Proof.Machine

/-- The least time between the blanking or enabling step before a delay step and that delay step (R94, R105); 0 for
every other step (DESIGN CHOICE, safe: log 10). -/
def stepMinTime (c : Config) : Phase → Nat
  | .settle => c.tSettle
  | .hold => c.tVisible
  | .disable => 0
  | .frameSync => 0
  | .rowsel => 0
  | .shiftData => 0
  | .clkHi => 0
  | .clkLo => 0
  | .latHi => 0
  | .latLo => 0
  | .enable => 0
  | .cfgHalt => 0

/-- The least time that the next `n` engine steps take (R170). -/
def engineMinTime : Nat → State → Nat
  | 0, _ => 0
  | n + 1, s => stepMinTime s.cfg s.phase + engineMinTime n (engineStep s)

end Sys2Proof.Machine
end

