-- ==== Sys2Proof/Machine/Flags.lean ====
section
/-! DEFINITION. The status port (R30, R31, R124) and the brightness modulator's duty (R125, R126). -/

namespace Sys2Proof.Machine

/-- The phase codes of R24. -/
def Phase.code : Phase → BitVec 4
  | .disable => 0#4
  | .frameSync => 1#4
  | .settle => 2#4
  | .rowsel => 3#4
  | .shiftData => 4#4
  | .clkHi => 5#4
  | .clkLo => 6#4
  | .latHi => 7#4
  | .latLo => 8#4
  | .enable => 9#4
  | .hold => 10#4
  | .cfgHalt => 15#4

/-- `STATUS` (R30): each field at its place; bits 31:23 and 7:5 are reserved and read 0. A read is no step of the
machine (DEDUCED, safe: log 13). While `rst` is asserted the registers hold their reset values (`State.enterReset`,
`MachineInv`), so it reads those (R156). -/
def State.readStatus (s : State) : BitVec 32 :=
  fieldAt 32 0 (BitVec.ofBool s.swapPending)
    ||| fieldAt 32 1 (BitVec.ofBool s.frontSel)
    ||| fieldAt 32 2 (BitVec.ofBool s.cfgFault)
    ||| fieldAt 32 3 (BitVec.ofBool s.illCmd)
    ||| fieldAt 32 4 (BitVec.ofBool s.intFault)
    ||| fieldAt 32 8 s.bright
    ||| fieldAt 32 16 s.phase.code
    ||| fieldAt 32 20 s.row

/-- `BAD_CMD`, read through the status port (R31); while `rst` is asserted its reset value, as `STATUS` (R156). -/
def State.readBadCmd (s : State) : Word64 := s.badCmd

/-- `Duty(level)`: exact product, floor division (R125). -/
def duty (c : Config) (level : BitVec 8) : Nat := c.maxDuty * level.toNat / 255

/-- The display-enable duty port `OE_DUTY` (R126). -/
def State.oeDuty (s : State) : Nat := if s.oeEn then duty s.cfg s.bright else 0

/-- A fault bit is set: a faulted state is no good final state (R137). -/
def State.faulted (s : State) : Bool := s.cfgFault || s.illCmd || s.intFault

end Sys2Proof.Machine
end

