-- ==== Sys2Proof/Machine/Ports.lean ====
section
/-! DEFINITION. The output ports (R27, R98). -/

namespace Sys2Proof.Machine

/-- The output port vector, 1 = asserted (R27). -/
structure Ports where
  r1 : Bool
  g1 : Bool
  b1 : Bool
  r2 : Bool
  g2 : Bool
  b2 : Bool
  addrA : Bool
  addrB : Bool
  addrC : Bool
  clk : Bool
  lat : Bool
  oeDuty : Nat
  deriving DecidableEq, Repr

/-- The port vector of a state (R27, R98). The step that asserts `rst` puts it at the reset values at once (R158). -/
def State.ports (s : State) : Ports :=
  { r1 := s.colorUp.getLsbD 0
    g1 := s.colorUp.getLsbD 1
    b1 := s.colorUp.getLsbD 2
    r2 := s.colorLo.getLsbD 0
    g2 := s.colorLo.getLsbD 1
    b2 := s.colorLo.getLsbD 2
    addrA := s.addr.getLsbD 0
    addrB := s.addr.getLsbD 1
    addrC := s.addr.getLsbD 2
    clk := s.clkR
    lat := s.latR
    oeDuty := s.oeDuty }

end Sys2Proof.Machine
end

