-- ==== Sys2Proof/Machine/Observe.lean ====
section
/-! DEFINITION. What is observed of a run: the port vectors (R12) and the observation point of a host program (R161). -/

namespace Sys2Proof.Machine

/-- The trace of the output ports: one vector after each of the next `n` steps (R12). -/
def portTrace : Nat → State → List Ports
  | 0, _ => []
  | n + 1, s =>
    match step s with
    | .next t => t.ports :: portTrace n t
    | .fault _ => []
    | .refused _ => []

/-- The conditions of the observation point (R161): the program is finished, no swap is pending, a frame begins. A run
meets them again at later frames: `observationPoint` picks the first. -/
def State.atObservationPoint (s : State) : Bool :=
  s.ci == s.program.length && !s.swapPending && s.phase == .disable && s.row == 0#3

/-- The observation point of the run from `s` (R161): the first state that meets the conditions; none when the first `n`
steps reach none. -/
def observationPoint : Nat → State → Option State
  | 0, s => if s.atObservationPoint then some s else none
  | n + 1, s =>
    if s.atObservationPoint then some s
    else
      match step s with
      | .next t => observationPoint n t
      | .fault _ => none
      | .refused _ => none

end Sys2Proof.Machine
end

