-- ==== Sys2Proof/Safety.lean ====
section
/-! DEFINITION. What counts as a good run (R137, R161) and the invariants of the machine (R35). -/

namespace Sys2Proof.Machine

/-- A state that can be a good end: it meets the conditions of an observation point and no fault bit is set (R137, R161). -/
def State.goodEnd (s : State) : Bool := s.atObservationPoint && !s.faulted

/-- The run from `s` ends well within `n` steps: its observation point, the first state that meets the conditions, is
reached and has no fault bit set (R137, R161). -/
def endsWell (n : Nat) (s : State) : Bool := (observationPoint n s).any fun t => !t.faulted

/-- The phases from a `ROWSEL` step to the next `DISABLE` step, in which the address lines are stable (R95, R108). -/
def Phase.addressed : Phase → Bool
  | .disable => false
  | .frameSync => false
  | .settle => false
  | .rowsel => false
  | .shiftData => true
  | .clkHi => true
  | .clkLo => true
  | .latHi => true
  | .latLo => true
  | .enable => true
  | .hold => true
  | .cfgHalt => false

/-- The phases between a `DISABLE` step and the `ENABLE` step after it: the codes 1 to 9 (R109). -/
def Phase.blanked (p : Phase) : Bool := decide (1 ≤ p.code.toNat ∧ p.code.toNat ≤ 9)

/-- What the engine's registers hold in every reachable state under a valid configuration. -/
structure SeqInv (s : State) : Prop where
  /-- R35 item 8. -/
  not_halted : s.phase ≠ .cfgHalt
  /-- R35 item 1. -/
  row_lt : s.row.toNat < s.cfg.scanRows
  /-- R35 item 1. -/
  col_lt : s.col < s.cfg.ncols
  /-- R35 items 2 and 3. -/
  oe_phase : s.oeEn = true → s.phase = .hold ∨ s.phase = .disable
  /-- R104. -/
  hold_oe : s.phase = .hold → s.oeEn = true
  /-- R35 item 4 and R100. -/
  clk_phase : s.clkR = true ↔ s.phase = .clkLo
  /-- R35 item 5 and R102. -/
  lat_phase : s.latR = true ↔ s.phase = .latLo
  /-- R93: `FRAME_SYNC` is reached only with `ROW == 0`. -/
  sync_row : s.phase = .frameSync → s.row = 0#3
  /-- R95: the address lines show the current sub-row. -/
  addr_row : s.phase.addressed = true → s.addr = s.row

/-- What holds in every reachable state under a valid configuration (R35 and the rules the fields name). -/
structure RunInv (s : State) : Prop extends SeqInv s where
  /-- R138, R157. -/
  cfg_valid : s.cfg.valid = true
  /-- R35 item 8. -/
  no_cfg_fault : s.cfgFault = false
  /-- R74: `INT_FAULT` is never set. -/
  no_int_fault : s.intFault = false
  /-- R31. -/
  bad_cmd : s.illCmd = true ↔ s.badCmd ≠ 0#64
  /-- The frame store keeps its canonical form. -/
  mem_wf : s.mem.wf = true
  /-- No cell outside the buffers is listed (R17). -/
  mem_bounded : s.mem.bounded s.cfg = true
  /-- `CI` never passes the end of the host program (R29). -/
  ci_le : s.ci ≤ s.program.length

/-- What holds in every reachable state. While `rst` is asserted the block holds its reset values (R156); under an invalid
configuration its only reachable state is the reset state (R35, R138). -/
def MachineInv (s : State) : Prop :=
  (s.rst = true → s = s.afterReset) ∧ if s.cfg.valid then RunInv s else s = s.afterReset

/-- The two states differ at most in the back buffer, in states that agree on which one that is (R50). -/
def SameButBack (s t : State) : Prop :=
  t.mem.buffer s.frontSel = s.mem.buffer s.frontSel ∧ t = s.setMem t.mem

end Sys2Proof.Machine
end

