-- ==== Sys2Proof/Certificates/Slice0/Obligations.lean ====
section
/-! DEFINITION. The statements for the provers. Each docstring names the rule of spec/ it formalises. A statement about a
state holds for the configuration that the state carries, so for every configuration. -/

open Sys2Proof Sys2Proof.Machine

/-! ## Encoding -/

/-- R66, and vectors E9 and E10 of 95_test_vectors.md: words written out in the spec. -/
def Obligations.SpecWordsDecode : Prop :=
  decode 0x0000002000400041#64 = .command (.setpx 64 32 4#3)
    ∧ decode 0x00000005FFFF0011#64 = .command (.setpx (-1) 5 1#3)
    ∧ decode 0x0000FFFF00050011#64 = .command (.setpx 5 (-1) 1#3)
    ∧ decode 0x00007FFF80000071#64 = .command (.setpx (-32768) 32767 7#3)
    ∧ decode 0x0000000000008004#64 = .command (.bright 128#8)
    ∧ decode 0x0000000000000003#64 = .command .swap
    ∧ decode 0x0000000000000002#64 = .command .clrb
    ∧ decode 0x0000000000000000#64 = .command .nop
    ∧ decode 0x0000000000000005#64 = .illegal .reservedOpcode
    ∧ decode 0x0000000000000012#64 = .illegal .reservedField
    ∧ decode 0x0001000000000001#64 = .illegal .reservedField

/-- R57 to R64: decoding the word of a well-formed command gives the command back, with every operand. -/
def Obligations.DecodeOfEncode : Prop :=
  ∀ i : Instr, i.wellFormed = true → decode (encode i) = .command i

/-- R57 to R64: a word that decodes to a command is the word of that command, which is well-formed. -/
def Obligations.EncodeOfDecode : Prop :=
  ∀ (w : Word64) (i : Instr), decode w = .command i → i.wellFormed = true ∧ encode i = w

/-- R61: a word is a command exactly when its masked bits are the command's match value; no word is in two rows of the
table; and the other eleven values of `OP` are reserved. -/
def Obligations.DecodeAgreesWithMaskTable : Prop :=
  ∀ w : Word64,
    (decode w = .command .nop ↔ w &&& 0xFFFFFFFFFFFFFFFF#64 = 0x0000000000000000#64)
      ∧ ((∃ x y c, decode w = .command (.setpx x y c)) ↔ w &&& 0xFFFF00000000FF8F#64 = 0x0000000000000001#64)
      ∧ (decode w = .command .clrb ↔ w &&& 0xFFFFFFFFFFFFFFFF#64 = 0x0000000000000002#64)
      ∧ (decode w = .command .swap ↔ w &&& 0xFFFFFFFFFFFFFFFF#64 = 0x0000000000000003#64)
      ∧ ((∃ l, decode w = .command (.bright l)) ↔ w &&& 0xFFFFFFFFFFFF00FF#64 = 0x0000000000000004#64)
      ∧ (∀ i ∈ opcodeRows, ∀ j ∈ opcodeRows, inRow i w = true → inRow j w = true → i = j)
      ∧ (decode w = .illegal .reservedOpcode ↔ 5 ≤ w.toNat % 16)

/-- R62: a word in no row of the table is illegal, and only such a word; accepting it raises `ILLEGAL_COMMAND` and executes
nothing. Of the two reasons the reserved `OP` values are 5 to 15. -/
def Obligations.UnmatchedWordsAreIllegal : Prop :=
  ∀ w : Word64,
    ((∃ r, decode w = .illegal r) ↔ ∀ i ∈ opcodeRows, inRow i w = false)
      ∧ (5 ≤ w.toNat % 16 → ∃ r, decode w = .illegal r)
      ∧ ∀ s : State, s.mover = some .host → s.program[s.ci]? = some w → (∀ i ∈ opcodeRows, inRow i w = false) →
          ∃ t, step s = .next t
            ∧ t = { s with turns := s.turns.tail, illCmd := true, badCmd := t.badCmd, ci := s.ci + 1 }

/-- R60: the operands as numbers: the coordinates are the signed 16-bit fields, the other operands are not extended. An `X`
of `0xFFFF` is -1, and a pixel write at -1 is ignored. -/
def Obligations.OperandsAreTheFields : Prop :=
  ∀ w : Word64,
    (∀ x y c, decode w = .command (.setpx x y c) →
      x = (if w.toNat / 2 ^ 16 % 2 ^ 16 < 2 ^ 15 then (w.toNat / 2 ^ 16 % 2 ^ 16 : Int)
            else (w.toNat / 2 ^ 16 % 2 ^ 16 : Int) - 2 ^ 16)
        ∧ y = (if w.toNat / 2 ^ 32 % 2 ^ 16 < 2 ^ 15 then (w.toNat / 2 ^ 32 % 2 ^ 16 : Int)
            else (w.toNat / 2 ^ 32 % 2 ^ 16 : Int) - 2 ^ 16)
        ∧ c.toNat = w.toNat / 2 ^ 4 % 2 ^ 3)
      ∧ (∀ l, decode w = .command (.bright l) → l.toNat = w.toNat / 2 ^ 8 % 2 ^ 8)
      ∧ (∀ x y c, decode w = .command (.setpx x y c) → w.toNat / 2 ^ 16 % 2 ^ 16 = 0xFFFF →
          x = -1 ∧ ∀ s : State, exec (.setpx x y c) s = .next { s with ci := s.ci + 1 })

/-- R43: over a byte-wide bus byte `k` carries bits `[8k+7:8k]`, and the block has a word only when all eight bytes are
there. -/
def Obligations.BytesCarryTheWordLittleEndian : Prop :=
  (∀ (w : Word64) (rest : List Byte), decodeBytes (bytesOfWord w ++ rest) = some (decode w, rest))
    ∧ (∀ (w : Word64) (k : Nat), k < 8 → (byteOfWord w k).toNat = w.toNat / 2 ^ (8 * k) % 2 ^ 8)
    ∧ ∀ bs : List Byte, bs.length < 8 → decodeBytes bs = none

/-- 30_encoding.md sections 1 to 4: a line that assembles to a command assembles to one whose operands fit their fields, so
its word decodes to it (R57 to R64). It ranges over every text; how a text with details that R64 leaves open is read is the
model's choice (log 9). `AssemblerReadsEachMnemonic` says which line gives which command. -/
def Obligations.AssembledCommandsDecode : Prop :=
  ∀ (line : List Char) (i : Instr), assembleLine line = .command i →
    i.wellFormed = true ∧ (assembleLine line).word = some (encode i) ∧ decode (encode i) = .command i

/-! ## Commands -/

/-- R71, R72, R73: inside the logical grid the mapped cell of the back buffer takes the colour and every other cell of either
buffer stays; outside it no cell changes. `CI` advances and nothing else changes, on either path. The word has `OP = 0001`
and is accepted only when neither `SWAP_PENDING` nor `CFG_FAULT` is set. -/
def Obligations.SetpxWritesTheMappedCell : Prop :=
  ∀ (s : State) (x y : Int) (color : Pixel),
    ∃ t, exec (.setpx x y color) s = .next t
      ∧ opField (encode (.setpx x y color)) = 1#4
      ∧ (s.mover = some .host → s.swapPending = false ∧ s.cfgFault = false)
      ∧ t = { s with mem := t.mem, ci := s.ci + 1 }
      ∧ (0 ≤ x ∧ x < s.cfg.logWidth ∧ 0 ≤ y ∧ y < s.cfg.logHeight →
          t.mem.read (!s.frontSel) (mapPos s.cfg x.toNat y.toNat).y (mapPos s.cfg x.toNat y.toNat).x = color
          ∧ ∀ b row col, ¬(b = (!s.frontSel) ∧ row = (mapPos s.cfg x.toNat y.toNat).y
                ∧ col = (mapPos s.cfg x.toNat y.toNat).x) →
              t.mem.read b row col = s.mem.read b row col)
      ∧ (¬(0 ≤ x ∧ x < s.cfg.logWidth ∧ 0 ≤ y ∧ y < s.cfg.logHeight) → t.mem = s.mem)

/-- R72: the mapping as the rule writes it, and panel by panel: the pixel `(u, v)` of the panel in grid column `k` and grid
row `r` lies in chain panel `r * N_HOR + k`. -/
def Obligations.MapIsRowMajorChain : Prop :=
  (∀ (c : Config) (x y : Nat),
    mapPos c x y = { x := (y / c.panelHeight * c.nHor + x / c.panelWidth) * c.panelWidth + x % c.panelWidth,
                     y := y % c.panelHeight })
  ∧ ∀ (c : Config) (k r u v : Nat), k < c.nHor → u < c.panelWidth → v < c.panelHeight →
    mapPos c (k * c.panelWidth + u) (r * c.panelHeight + v)
      = { x := (r * c.nHor + k) * c.panelWidth + u, y := v }

/-- R76 (derived there): `Map` is a bijection from the logical grid onto the buffer, with `Unmap` its inverse. -/
def Obligations.MapIsBijection : Prop :=
  ∀ c : Config, c.valid = true →
    (∀ x y, x < c.logWidth → y < c.logHeight →
      inPhysical c (mapPos c x y) = true ∧ unmapPos c (mapPos c x y) = { x := x, y := y })
    ∧ ∀ p, inPhysical c p = true →
      (unmapPos c p).x < c.logWidth ∧ (unmapPos c p).y < c.logHeight
        ∧ mapPos c (unmapPos c p).x (unmapPos c p).y = p

/-- R81: `CLRB` zeroes every cell of the back buffer in one step; the front buffer and every register but `CI` stay. Its
word is 2, accepted only when neither `SWAP_PENDING` nor `CFG_FAULT` is set. -/
def Obligations.ClrbZeroesTheBackBuffer : Prop :=
  ∀ s : State, ∃ t, exec .clrb s = .next t
    ∧ encode .clrb = 0x0000000000000002#64
    ∧ (s.mover = some .host → s.swapPending = false ∧ s.cfgFault = false)
    ∧ t = { s with mem := t.mem, ci := s.ci + 1 }
    ∧ (∀ row col, t.mem.read (!s.frontSel) row col = 0#3)
    ∧ t.mem.buffer s.frontSel = s.mem.buffer s.frontSel

/-- R83: `SWAP` sets `SWAP_PENDING`; the exchange itself is the engine's next `FRAME_SYNC`. Its word is 3, accepted only
when neither `SWAP_PENDING` nor `CFG_FAULT` is set. -/
def Obligations.SwapRequestsTheExchange : Prop :=
  (∀ s : State, ∃ t, exec .swap s = .next t
      ∧ encode .swap = 0x0000000000000003#64
      ∧ (s.mover = some .host → s.swapPending = false ∧ s.cfgFault = false)
      ∧ t = { s with swapPending := true, ci := s.ci + 1 }
      ∧ t.readStatus.getLsbD 0 = true)
    ∧ ∀ s : State, s.mover = some .engine → s.phase = .frameSync → s.swapPending = true →
      step s = .next { s with turns := s.turns.tail, frontSel := !s.frontSel, swapPending := false, phase := .settle }

/-- R121: `BRIGHT` sets the level. With `OE_EN == 1` the new duty is on the port at once, with `OE_EN == 0` the port
stays 0 and the `ENABLE` step shows the level. The word has `OP = 0100` and the level in bits 15:8, and is accepted only
when neither `SWAP_PENDING` nor `CFG_FAULT` is set. -/
def Obligations.BrightSetsTheLevel : Prop :=
  ∀ (s : State) (level : BitVec 8),
    ∃ t, exec (.bright level) s = .next t
      ∧ (encode (.bright level)).toNat = level.toNat * 2 ^ 8 + 4
      ∧ (s.mover = some .host → s.swapPending = false ∧ s.cfgFault = false)
      ∧ (t.phase = .enable → (engineStep t).ports.oeDuty = s.cfg.maxDuty * level.toNat / 255)
      ∧ t = { s with bright := level, ci := s.ci + 1 }
      ∧ t.ports.oeDuty = (if s.oeEn then s.cfg.maxDuty * level.toNat / 255 else 0)
      ∧ t.readStatus.extractLsb' 8 8 = level

/-- R123: `NOP` changes nothing but `CI`. Only the word 0 is a `NOP`, accepted only when neither `SWAP_PENDING` nor
`CFG_FAULT` is set. -/
def Obligations.NopChangesOnlyTheIndex : Prop :=
  ∀ s : State, exec .nop s = .next { s with ci := s.ci + 1 }
    ∧ (∀ w : Word64, decode w = .command .nop ↔ w = 0x0000000000000000#64)
    ∧ (s.mover = some .host → s.swapPending = false ∧ s.cfgFault = false)

/-- R45 (derived there): every command but `SWAP`, executed twice, leaves the state of one execution, apart from `CI`; so
does an illegal word. -/
def Obligations.CommandsButSwapAreIdempotent : Prop :=
  (∀ (i : Instr) (s : State), i ≠ .swap →
    ∃ t, exec i s = .next t ∧ exec i t = .next { t with ci := t.ci + 1 })
  ∧ ∀ (w : Word64) (s : State),
    acceptIllegal w (acceptIllegal w s) = { acceptIllegal w s with ci := (acceptIllegal w s).ci + 1 }

/-- R34 (derived there), the host's column: a command leaves the engine's registers, `FRONT_SEL`, the front buffer,
`CFG_FAULT`, `ILL_CMD` and `BAD_CMD` alone; only `SWAP` writes `SWAP_PENDING` and only `BRIGHT` writes `BRIGHT`. `INT_FAULT`
stays too, because the check that would raise it never fails (R74), and `CI` advances by 1 (R29). -/
def Obligations.CommandsLeaveTheEngineAlone : Prop :=
  ∀ (i : Instr) (s : State), ∃ t, exec i s = .next t
    ∧ t.ci = s.ci + 1
    ∧ t.phase = s.phase ∧ t.row = s.row ∧ t.col = s.col ∧ t.oeEn = s.oeEn
    ∧ t.colorUp = s.colorUp ∧ t.colorLo = s.colorLo ∧ t.addr = s.addr ∧ t.clkR = s.clkR ∧ t.latR = s.latR
    ∧ t.frontSel = s.frontSel
    ∧ t.mem.buffer s.frontSel = s.mem.buffer s.frontSel
    ∧ t.cfgFault = s.cfgFault ∧ t.illCmd = s.illCmd ∧ t.intFault = s.intFault ∧ t.badCmd = s.badCmd
    ∧ t.cfg = s.cfg ∧ t.program = s.program ∧ t.turns = s.turns ∧ t.rst = s.rst
    ∧ (i ≠ .swap → t.swapPending = s.swapPending)
    ∧ ((∀ l, i ≠ .bright l) → t.bright = s.bright)
    ∧ ((∀ x y c, i ≠ .setpx x y c) → i ≠ .clrb → t.mem = s.mem)

/-! ## The command port -/

/-- R29: when the port is ready, when the host offers a word and when it has a step; the step takes one word, executes it or
records it as illegal, and `CI` advances by 1 for either. -/
def Obligations.AcceptedWordsAdvanceTheIndex : Prop :=
  ∀ s : State,
    (s.cmdReady = true ↔ s.cfgFault = false ∧ s.swapPending = false ∧ s.rst = false)
    ∧ (s.cmdValid = true ↔ s.ci < s.program.length)
    ∧ (s.hostEnabled = true ↔ s.cmdValid = true ∧ s.cmdReady = true)
    ∧ (s.mover = some .host →
        ∃ w t, s.program[s.ci]? = some w ∧ step s = .next t ∧ t.ci = s.ci + 1 ∧ t.program = s.program
          ∧ (∀ i, decode w = .command i → exec i { s with turns := s.turns.tail } = .next t)
          ∧ (∀ r, decode w = .illegal r → t.illCmd = true))

/-- R63: the step of an accepted word is the effect of the command it decodes to. -/
def Obligations.StepRunsTheDecodedCommand : Prop :=
  ∀ (s : State) (w : Word64) (i : Instr), s.mover = some .host → s.program[s.ci]? = some w → decode w = .command i →
    step s = exec i { s with turns := s.turns.tail }

/-- The word that `withFetchWord` places is the one the next step runs: the model's own interface (log 5). -/
def Obligations.PlacedWordRunsNext : Prop :=
  ∀ (s : State) (w : Nat) (i : Instr), decodeTableWord 64 w = some i →
    step (s.withFetchWord 64 w) = exec i (s.withFetchWord 64 w).popTurn

/-- R84: while `SWAP_PENDING == 1` the port is not ready and no word is accepted, and only a `FRAME_SYNC` step lifts the
hold, which the engine reaches within one frame of its steps. -/
def Obligations.PendingSwapHoldsThePort : Prop :=
  ∀ s : State, s.swapPending = true →
    s.cmdReady = false ∧ s.hostEnabled = false
    ∧ (∀ t, s.resetDue = false → step s = .next t →
        t.ci = s.ci ∧ t.mem = s.mem ∧ t.bright = s.bright ∧ t.illCmd = s.illCmd
          ∧ (t.swapPending = false → s.phase = .frameSync))
    ∧ (RunInv s → ∃ n, n < s.cfg.scanRows * (7 + 3 * s.cfg.ncols) + 1
        ∧ (engineRun n s).phase = .frameSync ∧ (engineRun n s).swapPending = true)

/-- R10, R11: outside reset every step is a step of an agent that has one; with neither enabled and no reset the machine is
stuck; and a turn can be given to any agent that has a step, or to a reset, so every interleaving is a run of some state
(log 3). -/
def Obligations.TurnsGiveEveryInterleaving : Prop :=
  ∀ s : State,
    (s.mover = some .engine → s.phase ≠ .cfgHalt ∧ s.rst = false)
    ∧ (s.mover = some .host → s.hostEnabled = true)
    ∧ (s.mover = none ↔ s.resetDue = false ∧ s.rst = false ∧ s.phase = .cfgHalt ∧ s.hostEnabled = false)
    ∧ (s.mover = none → step s = .fault .noEnabledStep)
    ∧ (s.rst = false → s.phase ≠ .cfgHalt → ∀ ts, ({ s with turns := .engine :: ts } : State).mover = some .engine)
    ∧ (s.hostEnabled = true → ∀ ts, ({ s with turns := .host :: ts } : State).mover = some .host)
    ∧ (∀ ts, ({ s with turns := .rst :: ts } : State).mover = some .reset)

/-! ## Faults -/

/-- R139: an accepted illegal word is not executed: it sets `ILL_CMD`, `BAD_CMD` keeps the first such word, `CI` passes it
and nothing else changes. -/
def Obligations.IllegalWordIsRecorded : Prop :=
  ∀ (s : State) (w : Word64) (r : IllegalReason), s.mover = some .host → s.program[s.ci]? = some w →
    decode w = .illegal r →
      step s = .next { s with
        turns := s.turns.tail
        illCmd := true
        badCmd := if s.illCmd then s.badCmd else w
        ci := s.ci + 1 }

/-- R137: what raising each cause writes, that no step but a reset clears a fault bit, and that a state with one is no good
end. -/
def Obligations.FaultBitsAreSticky : Prop :=
  (∀ s : State, s.raiseFault .config = { s with cfgFault := true }
    ∧ (∀ w, s.raiseFault (.illegalCommand w)
        = { s with badCmd := if s.illCmd then s.badCmd else w, illCmd := true })
    ∧ s.raiseFault .internalConsistency = { s with intFault := true })
  ∧ ∀ s t : State, s.resetDue = false → step s = .next t →
    (s.cfgFault = true → t.cfgFault = true) ∧ (s.illCmd = true → t.illCmd = true)
      ∧ (s.intFault = true → t.intFault = true)
      ∧ (s.goodEnd = true → s.cfgFault = false ∧ s.illCmd = false ∧ s.intFault = false)

/-- R146: a second illegal word keeps `ILL_CMD` and `BAD_CMD`; only a reset clears the fault bits, and it does. -/
def Obligations.FirstIllegalWordIsKept : Prop :=
  ∀ s : State,
    (s.illCmd = true → ∀ t, s.resetDue = false → step s = .next t → t.illCmd = true ∧ t.badCmd = s.badCmd)
    ∧ (∀ t, step s = .next t →
        (s.cfgFault = true ∧ t.cfgFault = false) ∨ (s.illCmd = true ∧ t.illCmd = false)
          ∨ (s.intFault = true ∧ t.intFault = false) → s.resetDue = true)
    ∧ (s.resetDue = true →
        ∃ t, step s = .next t ∧ t.illCmd = false ∧ t.intFault = false ∧ t.badCmd = 0#64
          ∧ (s.cfg.valid = true → t.cfgFault = false))

/-- R74 (derived there): no `SETPX` raises `INTERNAL_CONSISTENCY`, and no step sets `INT_FAULT`. -/
def Obligations.InternalFaultIsNeverRaised : Prop :=
  (∀ (s : State) (x y : Int) (color : Pixel), ∃ t, exec (.setpx x y color) s = .next t ∧ t.intFault = s.intFault)
  ∧ ∀ s t : State, step s = .next t → s.intFault = false → t.intFault = false

/-- 60_exceptions.md section 1 (R138) and 70_reset_and_hazards.md section 1: under an invalid configuration the block is in
`CFG_HALT` with `CFG_FAULT` set; the port is never ready, no agent has a step, the status port reads the fault, every output
is at its reset value; and a reset comes back to it. That `step` answers the stuck block with `Fault.noEnabledStep` is read
from the spec by inference (DEDUCED, log 7); that `rst` is a turn, released by a step that changes only its level, with the
program and the later turns kept, is the model's choice (log 4). -/
def Obligations.InvalidConfigurationIsStuck : Prop :=
  ∀ (c : Config) (p : List Word64) (ts : List Turn) (r : Bool), c.valid = false →
    ∀ s, s = { State.resetOf c with program := p, turns := ts, rst := r } →
      s.phase = .cfgHalt ∧ s.cfgFault = true ∧ s.cmdReady = false
      ∧ s.readStatus.extractLsb' 2 1 = 1#1 ∧ s.readStatus.extractLsb' 16 4 = 15#4
      ∧ s.ports = { r1 := false, g1 := false, b1 := false, r2 := false, g2 := false, b2 := false,
                    addrA := false, addrB := false, addrC := false, clk := false, lat := false, oeDuty := 0 }
      ∧ (s.resetDue = false → r = false → step s = .fault .noEnabledStep)
      ∧ (s.resetDue = false → r = true → step s = .next { s with rst := false })
      ∧ (s.resetDue = true → step s = .next { s with turns := ts.tail, rst := true })

/-! ## Reset -/

/-- R33: the value of every piece of state after reset. -/
def Obligations.ResetValues : Prop :=
  ∀ c : Config,
    (∀ b y x, (State.resetOf c).mem.read b y x = 0#3)
    ∧ (State.resetOf c).frontSel = false
    ∧ (State.resetOf c).swapPending = false
    ∧ (State.resetOf c).bright = c.brightReset
    ∧ ((State.resetOf c).cfgFault = true ↔ c.valid = false)
    ∧ (State.resetOf c).illCmd = false ∧ (State.resetOf c).intFault = false
    ∧ (State.resetOf c).badCmd = 0#64
    ∧ (State.resetOf c).phase = (if c.valid then .disable else .cfgHalt)
    ∧ (State.resetOf c).row = 0#3
    ∧ (State.resetOf c).col = 0
    ∧ (State.resetOf c).oeEn = false
    ∧ (State.resetOf c).colorUp = 0#3 ∧ (State.resetOf c).colorLo = 0#3
    ∧ (State.resetOf c).addr = 0#3
    ∧ (State.resetOf c).clkR = false ∧ (State.resetOf c).latR = false
    ∧ (State.resetOf c).ci = 0

/-- R157: the outcome of reset, and the engine's first phases after a good one; a swap requested before the first
`FRAME_SYNC` takes effect there. -/
def Obligations.ResetStartsOrHaltsTheEngine : Prop :=
  ∀ c : Config,
    (c.valid = true →
      (State.resetOf c).cfgFault = false ∧ (State.resetOf c).phase = .disable ∧ (State.resetOf c).row = 0#3
        ∧ (engineRun 1 (State.resetOf c)).phase = .frameSync
        ∧ (engineRun 2 (State.resetOf c)).phase = .settle
        ∧ (engineRun 3 (State.resetOf c)).phase = .rowsel
        ∧ (engineRun 4 (State.resetOf c)).phase = .shiftData
        ∧ (engineRun 1 { State.resetOf c with swapPending := true }).frontSel = false
        ∧ (engineRun 2 { State.resetOf c with swapPending := true }).frontSel = true)
    ∧ (c.valid = false → (State.resetOf c).cfgFault = true ∧ (State.resetOf c).phase = .cfgHalt)

/-- 70_reset_and_hazards.md section 1: a step in which `rst` is asserted, at any point of a run, restores every register and
both buffers. While it is asserted the port is not ready and neither agent steps, and in a state that meets the invariant
the status port and the output ports show the reset values; when it is released the state holds them. That `rst` is a turn
of its own, and that the host starts again at its first word, is the model's choice (log 4). -/
def Obligations.ResetInputRestoresEverything : Prop :=
  ∀ s : State,
    (s.resetDue = true →
      step s = .next { State.resetOf s.cfg with program := s.program, turns := s.turns.tail, rst := true })
    ∧ (s.rst = true → s.cmdReady = false ∧ s.hostEnabled = false ∧ s.mover ≠ some .engine ∧ s.mover ≠ some .host)
    ∧ (s.rst = true → s.resetDue = false → step s = .next { s with rst := false })
    ∧ (MachineInv s → s.rst = true →
        s = { State.resetOf s.cfg with program := s.program, turns := s.turns, rst := true }
        ∧ s.readStatus = (State.resetOf s.cfg).readStatus ∧ s.readBadCmd = 0#64
        ∧ s.ports = (State.resetOf s.cfg).ports)

/-- The invariant holds after reset, for every configuration, host program, interleaving and level of `rst`, and of
`State.reset`. -/
def Obligations.ResetMeetsTheInvariant : Prop :=
  (∀ (c : Config) (p : List Word64) (ts : List Turn) (r : Bool),
    MachineInv { State.resetOf c with program := p, turns := ts, rst := r })
    ∧ MachineInv State.reset

/-! ## Invariants of every step -/

/-- Every step keeps the invariant: the items of R35 (derived there); `INT_FAULT` never set (R74), `BAD_CMD` by `ILL_CMD`
(R31), `CI` within the program (R29), no cell outside the buffers (R17), the reset values while `rst` is asserted (R156).
The canonical form of the frame store in it is the model's choice (log 8). -/
def Obligations.EveryStepKeepsTheInvariant : Prop := ∀ s t : State, MachineInv s → step s = .next t → MachineInv t

/-- Every step keeps the frame store's canonical form, so equal frame stores are equal data. -/
def Obligations.EveryStepKeepsTheFrameStoreCanonical : Prop :=
  ∀ s t : State, s.mem.wf = true → step s = .next t → t.mem.wf = true

/-- R167: no step changes the configuration or the host program. A step uses up the first turn; the release of `rst` uses up
none: that is the model's choice (logs 3 and 4). -/
def Obligations.NoStepChangesTheConfiguration : Prop :=
  ∀ s t : State, step s = .next t → t.cfg = s.cfg ∧ t.program = s.program
    ∧ (s.mover = some .release → t.turns = s.turns) ∧ (s.mover ≠ some .release → t.turns = s.turns.tail)

/-- R19, R35 item 6: outside reset `FRONT_SEL` changes only in a `FRAME_SYNC` step with a swap pending, which clears
`SWAP_PENDING` and moves no cell. -/
def Obligations.RolesChangeOnlyAtFrameSync : Prop :=
  ∀ s t : State, s.resetDue = false → step s = .next t → t.frontSel ≠ s.frontSel →
    s.phase = .frameSync ∧ s.swapPending = true ∧ t.swapPending = false ∧ t.mem = s.mem ∧ t.phase = .settle

/-- R50, R110 (derived there): outside reset no step of either agent writes the front buffer. -/
def Obligations.FrontBufferIsNeverWritten : Prop :=
  ∀ s t : State, s.resetDue = false → step s = .next t →
    t.mem.buffer s.frontSel = s.mem.buffer s.frontSel

/-- R111: no engine step writes the frame store, whatever the number of steps. -/
def Obligations.EngineNeverWritesTheFrameStore : Prop :=
  (∀ s : State, s.mover = some .engine → ∃ t, step s = .next t ∧ t.mem = s.mem)
    ∧ ∀ (n : Nat) (s : State), (engineRun n s).mem = s.mem

/-- R122: no engine step reads `BRIGHT`: with another level the engine does the same, in the same least time, and every port
but `OE_DUTY` shows the same. -/
def Obligations.BrightnessDoesNotMoveTheEngine : Prop :=
  ∀ (n : Nat) (s : State) (level : BitVec 8),
    engineRun n { s with bright := level } = { engineRun n s with bright := level }
      ∧ engineMinTime n { s with bright := level } = engineMinTime n s
      ∧ ({ s with bright := level } : State).ports = { s.ports with oeDuty := ({ s with bright := level } : State).oeDuty }

/-! ## Engine steps -/

/-- R92, R93: the steps of `DISABLE` and `FRAME_SYNC`; `FRAME_SYNC` is reached only from a `DISABLE` with `ROW == 0`, and in a
run it is blanked. -/
def Obligations.BlankingAndFrameSyncSteps : Prop :=
  ∀ s : State, s.mover = some .engine →
    (s.phase = .disable →
      ∃ t, step s = .next t ∧ t.ports.oeDuty = 0
        ∧ t = { s with turns := s.turns.tail, oeEn := false,
                       phase := if s.row = 0#3 then .frameSync else .settle })
    ∧ (s.phase = .frameSync →
        step s = .next { s with
          turns := s.turns.tail
          frontSel := if s.swapPending then !s.frontSel else s.frontSel
          swapPending := false
          phase := .settle })
    ∧ (∀ t, step s = .next t → t.phase = .frameSync → s.phase = .disable ∧ s.row = 0#3)
    ∧ (RunInv s → s.phase = .frameSync → s.ports.oeDuty = 0)

/-- R94, R95: the steps of `SETTLE` and `ROWSEL`. A `SETTLE` step takes at least `T_SETTLE`; no other engine step changes the
address, which in a run is a legal sub-row. -/
def Obligations.SettleAndRowSelectSteps : Prop :=
  ∀ s : State, s.mover = some .engine →
    (s.phase = .settle → step s = .next { s with turns := s.turns.tail, phase := .rowsel })
    ∧ (s.phase = .rowsel →
        ∃ t, step s = .next t
          ∧ t = { s with turns := s.turns.tail, addr := s.row, col := 0, phase := .shiftData }
          ∧ t.ports.addrA = s.row.getLsbD 0 ∧ t.ports.addrB = s.row.getLsbD 1 ∧ t.ports.addrC = s.row.getLsbD 2
          ∧ (RunInv s → t.addr.toNat < s.cfg.scanRows))
    ∧ (∀ t, step s = .next t → s.phase ≠ .rowsel → t.addr = s.addr)
    ∧ stepMinTime s.cfg .settle = s.cfg.tSettle

/-- R96 to R99: the step of `SHIFT_DATA`: both lanes come from the front buffer at the addresses of R97, 0 outside it, and
drive the six colour lines bit by bit. In a run the clock is low. -/
def Obligations.ShiftDataStep : Prop :=
  ∀ (s : State) (fx yu yl : Nat), s.mover = some .engine → s.phase = .shiftData →
    fx = s.col / s.cfg.panelWidth / 2 * s.cfg.panelWidth + s.col % s.cfg.panelWidth →
    yu = (if s.col / s.cfg.panelWidth % 2 = 0 then s.row.toNat + s.cfg.panelHeight / 4 else s.row.toNat) →
    yl = yu + 2 * (s.cfg.panelHeight / 4) →
    ∃ t, step s = .next t
      ∧ t = { s with turns := s.turns.tail, phase := .clkHi, colorUp := t.colorUp, colorLo := t.colorLo }
      ∧ t.colorUp = (if yu < s.cfg.phyHeight ∧ fx < s.cfg.phyWidth then s.mem.read s.frontSel yu fx else 0#3)
      ∧ t.colorLo = (if yl < s.cfg.phyHeight ∧ fx < s.cfg.phyWidth then s.mem.read s.frontSel yl fx else 0#3)
      ∧ t.ports.r1 = t.colorUp.getLsbD 0 ∧ t.ports.g1 = t.colorUp.getLsbD 1 ∧ t.ports.b1 = t.colorUp.getLsbD 2
      ∧ t.ports.r2 = t.colorLo.getLsbD 0 ∧ t.ports.g2 = t.colorLo.getLsbD 1 ∧ t.ports.b2 = t.colorLo.getLsbD 2
      ∧ (RunInv s → s.ports.clk = false ∧ t.ports.clk = false)

/-- R100, R101: the steps of `CLK_HI` and `CLK_LO`; in a run they are a rising and a falling edge, and a sub-row has at least
two columns. -/
def Obligations.ClockSteps : Prop :=
  ∀ s : State, s.mover = some .engine →
    (s.phase = .clkHi → step s = .next { s with turns := s.turns.tail, clkR := true, phase := .clkLo })
    ∧ (s.phase = .clkLo → s.col + 1 < s.cfg.panelWidth * s.cfg.nPanels * 2 →
        step s = .next { s with turns := s.turns.tail, clkR := false, col := s.col + 1, phase := .shiftData })
    ∧ (s.phase = .clkLo → s.cfg.panelWidth * s.cfg.nPanels * 2 ≤ s.col + 1 →
        step s = .next { s with turns := s.turns.tail, clkR := false, phase := .latHi })
    ∧ (RunInv s → s.phase = .clkHi → s.ports.clk = false)
    ∧ (RunInv s → s.phase = .clkLo → s.ports.clk = true ∧ 2 ≤ s.cfg.panelWidth * s.cfg.nPanels * 2)

/-- R102 to R105: the steps of `LAT_HI`, `LAT_LO`, `ENABLE` and `HOLD`. In a run the first two are a rising and a falling
edge, with the clock low at the first, and the row is lit in `HOLD`, whose step takes at least `T_VISIBLE`. -/
def Obligations.LatchEnableAndHoldSteps : Prop :=
  ∀ s : State, s.mover = some .engine →
    (s.phase = .latHi → step s = .next { s with turns := s.turns.tail, latR := true, phase := .latLo })
    ∧ (s.phase = .latLo → step s = .next { s with turns := s.turns.tail, latR := false, phase := .enable })
    ∧ (s.phase = .enable →
        ∃ t, step s = .next t ∧ t = { s with turns := s.turns.tail, oeEn := true, phase := .hold }
          ∧ t.ports.oeDuty = s.cfg.maxDuty * s.bright.toNat / 255)
    ∧ (s.phase = .hold →
        step s = .next { s with
          turns := s.turns.tail
          row := if s.row.toNat + 1 = s.cfg.scanRows then 0#3 else s.row + 1#3
          phase := .disable })
    ∧ (RunInv s → s.phase = .latHi → s.ports.lat = false ∧ s.ports.clk = false)
    ∧ (RunInv s → s.phase = .latLo → s.ports.lat = true)
    ∧ (RunInv s → s.phase = .hold → s.ports.oeDuty = s.cfg.maxDuty * s.bright.toNat / 255)
    ∧ stepMinTime s.cfg .hold = s.cfg.tVisible

/-! ## The refresh loop -/

/-- R97, R99 (derived there): under a valid configuration both fetches of every column step are inside the buffer. -/
def Obligations.FetchesStayInTheBuffer : Prop :=
  ∀ (c : Config) (row col : Nat), c.valid = true → row < c.scanRows → col < c.ncols →
    inPhysical c { x := (shiftAddr c row col).fx, y := (shiftAddr c row col).yu } = true
      ∧ inPhysical c { x := (shiftAddr c row col).fx, y := (shiftAddr c row col).yl } = true

/-- R110 (derived there): the column steps of one frame fetch every cell of the buffer exactly once, counting both lanes. -/
def Obligations.FrameFetchesEveryCellOnce : Prop :=
  ∀ (c : Config) (y x : Nat), c.valid = true → y < c.phyHeight → x < c.phyWidth →
    ∃ (row col : Nat) (lower : Bool), row < c.scanRows ∧ col < c.ncols
      ∧ (shiftAddr c row col).fx = x
      ∧ (if lower then (shiftAddr c row col).yl else (shiftAddr c row col).yu) = y
      ∧ ∀ (row' col' : Nat) (lower' : Bool), row' < c.scanRows → col' < c.ncols →
          (shiftAddr c row' col').fx = x →
          (if lower' then (shiftAddr c row' col').yl else (shiftAddr c row' col').yu) = y →
          row' = row ∧ col' = col ∧ lower' = lower

/-- R91, R96, R108 (derived there): a sub-row's shift. From its first `SHIFT_DATA` the engine gives `NCOLS` clock pulses;
before, during and after pulse `k` the colour lines hold the two pixels of column step `k`; then comes the latch. -/
def Obligations.SubRowShiftsEveryColumn : Prop :=
  ∀ s : State, RunInv s → s.phase = .shiftData → s.col = 0 →
    (∀ k up lo, k < s.cfg.ncols →
      up = fbRead s.cfg s.mem s.frontSel (shiftAddr s.cfg s.row.toNat k).yu (shiftAddr s.cfg s.row.toNat k).fx →
      lo = fbRead s.cfg s.mem s.frontSel (shiftAddr s.cfg s.row.toNat k).yl (shiftAddr s.cfg s.row.toNat k).fx →
        (engineRun (3 * k + 1) s).phase = .clkHi ∧ (engineRun (3 * k + 1) s).clkR = false
        ∧ (engineRun (3 * k + 1) s).colorUp = up ∧ (engineRun (3 * k + 1) s).colorLo = lo
        ∧ (engineRun (3 * k + 2) s).clkR = true
        ∧ (engineRun (3 * k + 2) s).colorUp = up ∧ (engineRun (3 * k + 2) s).colorLo = lo
        ∧ (engineRun (3 * k + 3) s).clkR = false
        ∧ (engineRun (3 * k + 3) s).colorUp = up ∧ (engineRun (3 * k + 3) s).colorLo = lo
        ∧ (engineRun (3 * k + 3) s).phase = (if k + 1 < s.cfg.ncols then .shiftData else .latHi))
    ∧ (engineRun (3 * s.cfg.ncols) s).phase = .latHi

/-- R107 (derived there): a sub-row takes `7 + 3*NCOLS` engine steps from `DISABLE` to the next `DISABLE`, and one more when
it is sub-row 0. -/
def Obligations.SubRowTakesItsSteps : Prop :=
  ∀ (s : State) (len : Nat), RunInv s → s.phase = .disable →
    len = (if s.row = 0#3 then 8 + 3 * s.cfg.ncols else 7 + 3 * s.cfg.ncols) →
      (engineRun len s).phase = .disable ∧ (engineRun len s).row = s.nextRow
        ∧ ∀ k, 0 < k → k < len → (engineRun k s).phase ≠ .disable

/-- R107 (derived there): a frame, from a `DISABLE` with `ROW == 0` to the next, takes `SCAN_ROWS*(7 + 3*NCOLS) + 1` engine
steps. -/
def Obligations.FrameTakesItsSteps : Prop :=
  ∀ (s : State) (len : Nat), RunInv s → s.phase = .disable → s.row = 0#3 →
    len = s.cfg.scanRows * (7 + 3 * s.cfg.ncols) + 1 →
      (engineRun len s).phase = .disable ∧ (engineRun len s).row = 0#3
        ∧ ∀ k, 0 < k → k < len → ¬((engineRun k s).phase = .disable ∧ (engineRun k s).row = 0#3)

/-- R107 (derived there): from any state of a valid run the engine takes a `FRAME_SYNC` step within one frame of its own
steps. -/
def Obligations.FrameSyncComesWithinAFrame : Prop :=
  ∀ s : State, RunInv s →
    ∃ n, n < s.cfg.scanRows * (7 + 3 * s.cfg.ncols) + 1 ∧ (engineRun n s).phase = .frameSync

/-- R170 (derived there): a frame lasts at least `SCAN_ROWS * (T_SETTLE + T_VISIBLE)`. The least time of a step other than
`SETTLE` and `HOLD` is 0 in the model, which is its choice (log 10): R170 gives those steps time of their own, so the sum is
a lower bound on the frame's time and not the time. -/
def Obligations.FrameLastsItsDelays : Prop :=
  ∀ s : State, RunInv s → s.phase = .disable → s.row = 0#3 →
    engineMinTime (s.cfg.scanRows * (7 + 3 * s.cfg.ncols) + 1) s = s.cfg.scanRows * (s.cfg.tSettle + s.cfg.tVisible)

/-- R109 (derived there): from a `DISABLE` step to the next `ENABLE` step the duty port is 0, whatever words the host issues
between the engine's steps. -/
def Obligations.BlankingWinsOverBrightness : Prop :=
  ∀ s t : State, RunInv s → s.resetDue = false → step s = .next t →
    (s.phase.blanked = true → s.ports.oeDuty = 0)
    ∧ (s.phase.blanked = true → s.phase ≠ .enable → t.ports.oeDuty = 0)
    ∧ (s.phase = .disable → t.phase ≠ .disable → t.ports.oeDuty = 0)

/-- R108 (derived there): the order of the port changes: the address changes only in `ROWSEL`, blanked; the colours change
only in `SHIFT_DATA`, with the clock low before and after; the clock rises with the colours unchanged; the latch rises with
the clock low and the colours unchanged; the display is enabled only with the latch low. -/
def Obligations.PortChangesFollowTheOrder : Prop :=
  ∀ s t : State, RunInv s → s.resetDue = false → step s = .next t →
    (t.addr ≠ s.addr → s.phase = .rowsel ∧ s.ports.oeDuty = 0 ∧ s.clkR = false ∧ s.latR = false)
    ∧ (t.colorUp ≠ s.colorUp ∨ t.colorLo ≠ s.colorLo →
        s.phase = .shiftData ∧ s.clkR = false ∧ t.clkR = false ∧ s.latR = false ∧ t.latR = false ∧ t.addr = s.addr)
    ∧ (s.clkR = false ∧ t.clkR = true →
        s.phase = .clkHi ∧ t.colorUp = s.colorUp ∧ t.colorLo = s.colorLo ∧ t.addr = s.row)
    ∧ (s.latR = false ∧ t.latR = true →
        s.phase = .latHi ∧ s.clkR = false ∧ t.clkR = false ∧ t.colorUp = s.colorUp ∧ t.colorLo = s.colorLo)
    ∧ (s.oeEn = false ∧ t.oeEn = true → s.phase = .enable ∧ s.latR = false ∧ t.latR = false ∧ s.clkR = false)

/-! ## Two agents -/

/-- 20_memory.md section 3 (R48 to R50): an engine step and a host step that are both enabled give the same state in either
order, but for a `SWAP` word against a `FRAME_SYNC` step. -/
def Obligations.EngineAndHostStepsCommute : Prop :=
  ∀ s t : State, s.hostEnabled = true → (s.phase = .frameSync → s.offeredWord ≠ some 0x0000000000000003#64) →
    hostStep s = .next t → hostStep (engineStep s) = .next (engineStep t)

/-- 20_memory.md section 3 (R51): what the host draws is invisible until a swap completes: two states that differ only in
the back buffer step alike and show the same ports, and still differ only there until the roles change. -/
def Obligations.BackBufferIsInvisibleUntilTheSwap : Prop :=
  ∀ s t s' : State, SameButBack s t → step s = .next s' → s'.frontSel = s.frontSel →
    ∃ t', step t = .next t' ∧ SameButBack s' t' ∧ t'.ports = s'.ports ∧ t'.readStatus = s'.readStatus

/-- 70_reset_and_hazards.md section 2 (R161): from every state of a valid run the observation point of the host program is
reached, whatever interleaving and resets the state still holds: a state of the run meets the conditions, no earlier one
does, and that is the one which `observationPoint` finds. Under an invalid configuration it is never reached. -/
def Obligations.ObservationPointIsReached : Prop :=
  (∀ s : State, RunInv s → ∃ n t,
    Host.Core.run Sys2Proof.core n s = .next t
    ∧ t.ci = t.program.length ∧ t.swapPending = false ∧ t.phase = .disable ∧ t.row = 0#3
    ∧ (∀ k u, k < n → Host.Core.run Sys2Proof.core k s = .next u → u.atObservationPoint = false)
    ∧ ∀ m, n ≤ m → observationPoint m s = some t)
  ∧ ∀ (c : Config) (p : List Word64) (ts : List Turn) (n : Nat), c.valid = false →
    observationPoint n { State.resetOf c with program := p, turns := ts } = none

/-! ## Ports and status -/

/-- R125, R126: the display-enable duty port. -/
def Obligations.DutyPortFollowsLevelAndGate : Prop :=
  ∀ s : State, s.ports.oeDuty = (if s.oeEn = true then s.cfg.maxDuty * s.bright.toNat / 255 else 0)
    ∧ s.ports.oeDuty ≤ s.cfg.maxDuty

/-- R127 (derived there): the duty is monotone, has the two extremes, and is injective exactly when `MAX_DUTY >= 255`. -/
def Obligations.DutyIsMonotone : Prop :=
  ∀ c : Config,
    (∀ a b : BitVec 8, a.toNat ≤ b.toNat → duty c a ≤ duty c b)
    ∧ duty c 0#8 = 0 ∧ duty c 255#8 = c.maxDuty
    ∧ ((∀ a b : BitVec 8, duty c a = duty c b → a = b) ↔ 255 ≤ c.maxDuty)
    ∧ (c.maxDuty = 255 → ∀ a : BitVec 8, duty c a = a.toNat)

/-- R30: the fields of `STATUS`, with the phase codes of R24; the reserved bits read 0; and what `STATUS` reads at reset. -/
def Obligations.StatusFields : Prop :=
  [Phase.disable, .frameSync, .settle, .rowsel, .shiftData, .clkHi, .clkLo, .latHi, .latLo, .enable, .hold,
      .cfgHalt].map Phase.code = [0#4, 1#4, 2#4, 3#4, 4#4, 5#4, 6#4, 7#4, 8#4, 9#4, 10#4, 15#4]
  ∧ (∀ c : Config,
    (State.resetOf c).readStatus.toNat = (if c.valid then 0 else 0x000F0004) + c.brightReset.toNat * 2 ^ 8)
  ∧ ∀ s : State,
    s.readStatus.getLsbD 0 = s.swapPending
    ∧ s.readStatus.getLsbD 1 = s.frontSel
    ∧ s.readStatus.getLsbD 2 = s.cfgFault
    ∧ s.readStatus.getLsbD 3 = s.illCmd
    ∧ s.readStatus.getLsbD 4 = s.intFault
    ∧ s.readStatus.extractLsb' 5 3 = 0#3
    ∧ s.readStatus.extractLsb' 8 8 = s.bright
    ∧ s.readStatus.extractLsb' 16 4 = s.phase.code
    ∧ s.readStatus.extractLsb' 20 3 = s.row
    ∧ s.readStatus.extractLsb' 23 9 = 0#9

/-- R27, R98: each port line is its register bit. -/
def Obligations.PortLinesAreRegisterBits : Prop :=
  ∀ s : State,
    s.colorUp = BitVec.ofBool s.ports.b1 ++ BitVec.ofBool s.ports.g1 ++ BitVec.ofBool s.ports.r1
    ∧ s.colorLo = BitVec.ofBool s.ports.b2 ++ BitVec.ofBool s.ports.g2 ++ BitVec.ofBool s.ports.r2
    ∧ s.addr = BitVec.ofBool s.ports.addrC ++ BitVec.ofBool s.ports.addrB ++ BitVec.ofBool s.ports.addrA
    ∧ s.ports.clk = s.clkR ∧ s.ports.lat = s.latR
    ∧ s.ports.oeDuty = s.oeDuty

/-! ## Assembly text -/

/-- 30_encoding.md section 4 (R64, R65): which line gives which command. A line of a mnemonic and operands, with or without a
comment after it, is read as that mnemonic with those operands; each mnemonic gives its command exactly when its operands
are in their ranges; `.word64` gives the word itself. That one space stands after the mnemonic is the model's reading of the
spec's examples, and a line with another count of operands is none of these (log 9). -/
def Obligations.AssemblerReadsEachMnemonic : Prop :=
  (∀ (m : List Char) (ops : List (List Char)) (comment : List Char),
    (∀ t ∈ m :: ops, t ≠ [] ∧ ∀ ch ∈ t, ch ≠ ',' ∧ ch ≠ ';' ∧ isBlank ch = false) →
      assembleLine (m ++ (if ops = [] then [] else ' ' :: [','].intercalate ops)) = asmCommand m ops
        ∧ assembleLine (m ++ (if ops = [] then [] else ' ' :: [','].intercalate ops) ++ ';' :: comment)
            = asmCommand m ops)
  ∧ ∀ (a b c : List Char) (i : Instr),
    (asmCommand "setpx".toList [a, b, c] = .command i ↔
      ∃ x y p, parseInt a = some x ∧ -32768 ≤ x ∧ x ≤ 32767 ∧ parseInt b = some y ∧ -32768 ≤ y ∧ y ≤ 32767
        ∧ (colorNames.lookup c = some p ∨ (colorNames.lookup c = none ∧ parseInt c = some (p.toNat : Int)))
        ∧ i = .setpx x y p)
    ∧ (asmCommand "clrpx".toList [a, b] = .command i ↔
        ∃ x y, parseInt a = some x ∧ -32768 ≤ x ∧ x ≤ 32767 ∧ parseInt b = some y ∧ -32768 ≤ y ∧ y ≤ 32767
          ∧ i = .setpx x y 0#3)
    ∧ (asmCommand "bright".toList [a] = .command i ↔ ∃ l, parseInt a = some (l.toNat : Int) ∧ i = .bright l)
    ∧ (∀ w, asmCommand ".word64".toList [a] = .raw w ↔ parseInt a = some (w.toNat : Int))
    ∧ asmCommand "nop".toList [] = .command .nop ∧ asmCommand "clrb".toList [] = .command .clrb
    ∧ asmCommand "swap".toList [] = .command .swap
    ∧ asmCommand "blank".toList [] = .command (.bright 0#8) ∧ asmCommand "full".toList [] = .command (.bright 255#8)
end

