-- ==== Sys2Proof/Laws/Memory.lean ====
section
/-! SUPPORT. The laws of the frame store: a read after a write, what a write leaves alone, and that every operation keeps
the canonical form and the bounds. -/

namespace Sys2Proof.Machine

/-! ## One buffer: reads -/

@[simp] theorem Buffer.read_nil (y x : Nat) : Buffer.read [] y x = unlistedPixel := rfl

theorem Buffer.erase_cons_hit {c : PixelCell} (cs : Buffer) {y x : Nat} (h : c.y = y ∧ c.x = x) :
    Buffer.erase (c :: cs) y x = Buffer.erase cs y x := List.filter_cons_of_neg (by simp [h])

theorem Buffer.erase_cons_miss {c : PixelCell} (cs : Buffer) {y x : Nat} (h : ¬(c.y = y ∧ c.x = x)) :
    Buffer.erase (c :: cs) y x = c :: Buffer.erase cs y x := List.filter_cons_of_pos (by rw [decide_eq_false h]; rfl)

theorem Buffer.read_erase_same (b : Buffer) (y x : Nat) : Buffer.read (Buffer.erase b y x) y x = unlistedPixel := by
  induction b with
  | nil => rfl
  | cons c cs ih =>
    by_cases h : c.y = y ∧ c.x = x
    · rw [Buffer.erase_cons_hit cs h, ih]
    · rw [Buffer.erase_cons_miss cs h, Buffer.read, if_neg h, ih]

theorem Buffer.read_erase_other (b : Buffer) {y x y' x' : Nat} (h : ¬(y' = y ∧ x' = x)) :
    Buffer.read (Buffer.erase b y x) y' x' = Buffer.read b y' x' := by
  induction b with
  | nil => rfl
  | cons c cs ih =>
    by_cases hc : c.y = y ∧ c.x = x
    · have hne : ¬(c.y = y' ∧ c.x = x') := fun e => h ⟨e.1.symm.trans hc.1, e.2.symm.trans hc.2⟩
      rw [Buffer.erase_cons_hit cs hc, ih, Buffer.read, if_neg hne]
    · rw [Buffer.erase_cons_miss cs hc, Buffer.read, Buffer.read, ih]

theorem Buffer.read_insert_other (p : PixelCell) (b : Buffer) {y x : Nat} (h : ¬(p.y = y ∧ p.x = x)) :
    Buffer.read (Buffer.insert p b) y x = Buffer.read b y x := by
  induction b with
  | nil => simp [Buffer.insert, Buffer.read, h]
  | cons c cs ih =>
    by_cases hb : p.before c = true
    · simp [Buffer.insert, hb, Buffer.read, h]
    · simp [Buffer.insert, hb, Buffer.read, ih]

/-- No cell of the buffer is at `(y, x)`. -/
def Buffer.absent (b : Buffer) (y x : Nat) : Prop := ∀ c ∈ b, ¬(c.y = y ∧ c.x = x)

theorem Buffer.absent_erase (b : Buffer) (y x : Nat) : Buffer.absent (Buffer.erase b y x) y x := by
  intro c hc
  have := (List.mem_filter.mp hc).2
  simpa only [Bool.not_eq_true', decide_eq_false_iff_not] using this

theorem Buffer.read_insert_same (p : PixelCell) {b : Buffer} (h : Buffer.absent b p.y p.x) :
    Buffer.read (Buffer.insert p b) p.y p.x = p.px := by
  induction b with
  | nil => simp [Buffer.insert, Buffer.read]
  | cons c cs ih =>
    by_cases hb : p.before c = true
    · simp [Buffer.insert, hb, Buffer.read]
    · have hc : ¬(c.y = p.y ∧ c.x = p.x) := h c (List.mem_cons_self ..)
      have := ih fun d hd => h d (List.mem_cons_of_mem _ hd)
      simp [Buffer.insert, hb, Buffer.read, hc, this]

@[simp] theorem Buffer.read_write_same (b : Buffer) (y x : Nat) (v : Pixel) :
    Buffer.read (Buffer.write b y x v) y x = v := by
  unfold Buffer.write
  split
  · next h => rw [Buffer.read_erase_same, h]
  · exact Buffer.read_insert_same ⟨y, x, v⟩ (Buffer.absent_erase b y x)

theorem Buffer.read_write_other (b : Buffer) {y x y' x' : Nat} (v : Pixel) (h : ¬(y' = y ∧ x' = x)) :
    Buffer.read (Buffer.write b y x v) y' x' = Buffer.read b y' x' := by
  unfold Buffer.write
  split
  · exact Buffer.read_erase_other b h
  · rw [Buffer.read_insert_other _ _ (fun e => h ⟨e.1.symm, e.2.symm⟩), Buffer.read_erase_other b h]

/-! ## One buffer: erasing what is absent, writing twice -/

theorem Buffer.erase_of_absent {b : Buffer} {y x : Nat} (h : Buffer.absent b y x) : Buffer.erase b y x = b := by
  unfold Buffer.erase
  rw [List.filter_eq_self]
  intro c hc
  simpa only [Bool.not_eq_true', decide_eq_false_iff_not] using h c hc

theorem Buffer.erase_insert (p : PixelCell) {b : Buffer} (h : Buffer.absent b p.y p.x) :
    Buffer.erase (Buffer.insert p b) p.y p.x = b := by
  induction b with
  | nil => simp [Buffer.insert, Buffer.erase]
  | cons c cs ih =>
    have hc : ¬(c.y = p.y ∧ c.x = p.x) := h c (List.mem_cons_self ..)
    have hcs : Buffer.absent cs p.y p.x := fun d hd => h d (List.mem_cons_of_mem _ hd)
    by_cases hb : p.before c = true
    · rw [Buffer.insert, if_pos hb, Buffer.erase_cons_hit _ ⟨rfl, rfl⟩, Buffer.erase_of_absent h]
    · rw [Buffer.insert, if_neg hb, Buffer.erase_cons_miss _ hc, ih hcs]

/-- Writing the same pixel into the same cell again changes nothing (R45). -/
@[simp] theorem Buffer.write_write (b : Buffer) (y x : Nat) (v : Pixel) :
    Buffer.write (Buffer.write b y x v) y x v = Buffer.write b y x v := by
  by_cases hv : v = unlistedPixel
  · simp [Buffer.write, hv, Buffer.erase_of_absent (Buffer.absent_erase b y x)]
  · have := Buffer.erase_insert ⟨y, x, v⟩ (Buffer.absent_erase b y x)
    simp only [Buffer.write, hv, if_false] at this ⊢
    rw [this]

/-! ## One buffer: the canonical form -/

theorem PixelCell.before_trans {a b c : PixelCell} (h : a.before b = true) (h' : b.before c = true) :
    a.before c = true := by
  simp only [PixelCell.before, decide_eq_true_eq] at *
  omega

theorem Buffer.canonical_cons (c : PixelCell) (cs : Buffer) :
    Buffer.canonical (c :: cs) = true ↔
      (∀ d ∈ cs, c.before d = true) ∧ c.px ≠ unlistedPixel ∧ Buffer.canonical cs = true := by
  simp [Buffer.canonical, and_assoc]

theorem Buffer.canonical_erase {b : Buffer} (y x : Nat) (h : Buffer.canonical b = true) :
    Buffer.canonical (Buffer.erase b y x) = true := by
  induction b with
  | nil => rfl
  | cons c cs ih =>
    obtain ⟨hall, hpx, hcs⟩ := (Buffer.canonical_cons c cs).mp h
    by_cases hc : c.y = y ∧ c.x = x
    · rw [Buffer.erase_cons_hit cs hc]; exact ih hcs
    · rw [Buffer.erase_cons_miss cs hc, Buffer.canonical_cons]
      exact ⟨fun d hd => hall d (List.mem_of_mem_filter hd), hpx, ih hcs⟩

theorem Buffer.mem_insert {p d : PixelCell} {b : Buffer} (h : d ∈ Buffer.insert p b) : d = p ∨ d ∈ b := by
  induction b with
  | nil => simpa [Buffer.insert] using h
  | cons c cs ih =>
    by_cases hb : p.before c = true
    · simpa [Buffer.insert, hb] using h
    · rw [Buffer.insert, if_neg hb] at h
      rcases List.mem_cons.mp h with rfl | h
      · exact .inr (List.mem_cons_self ..)
      · exact (ih h).imp_right (List.mem_cons_of_mem _)

theorem Buffer.canonical_insert {p : PixelCell} {b : Buffer} (hp : p.px ≠ unlistedPixel)
    (ha : Buffer.absent b p.y p.x) (h : Buffer.canonical b = true) : Buffer.canonical (Buffer.insert p b) = true := by
  induction b with
  | nil => simpa [Buffer.insert, Buffer.canonical] using hp
  | cons c cs ih =>
    obtain ⟨hall, hpx, hcs⟩ := (Buffer.canonical_cons c cs).mp h
    by_cases hb : p.before c = true
    · rw [Buffer.insert, if_pos hb, Buffer.canonical_cons]
      refine ⟨fun d hd => ?_, hp, h⟩
      rcases List.mem_cons.mp hd with rfl | hd
      · exact hb
      · exact PixelCell.before_trans hb (hall d hd)
    · rw [Buffer.insert, if_neg hb, Buffer.canonical_cons]
      refine ⟨fun d hd => ?_, hpx, ih (fun d hd => ha d (List.mem_cons_of_mem _ hd)) hcs⟩
      rcases Buffer.mem_insert hd with rfl | hd
      · have hne := ha c (List.mem_cons_self ..)
        simp only [PixelCell.before, decide_eq_true_eq] at hb ⊢
        omega
      · exact hall d hd

theorem Buffer.canonical_write {b : Buffer} (y x : Nat) (v : Pixel) (h : Buffer.canonical b = true) :
    Buffer.canonical (Buffer.write b y x v) = true := by
  unfold Buffer.write
  split
  · exact Buffer.canonical_erase y x h
  · next hv => exact Buffer.canonical_insert hv (Buffer.absent_erase b y x) (Buffer.canonical_erase y x h)

theorem Buffer.bounded_write {c : Config} {b : Buffer} {y x : Nat} (v : Pixel)
    (hp : inPhysical c { x := x, y := y } = true) (h : b.all (PixelCell.exists c) = true) :
    (Buffer.write b y x v).all (PixelCell.exists c) = true := by
  have herase : ∀ d ∈ Buffer.erase b y x, PixelCell.exists c d = true :=
    fun d hd => List.all_eq_true.mp h d (List.mem_of_mem_filter hd)
  unfold Buffer.write
  split
  · exact List.all_eq_true.mpr herase
  · refine List.all_eq_true.mpr fun d hd => ?_
    rcases Buffer.mem_insert hd with rfl | hd
    · simp only [inPhysical, decide_eq_true_eq] at hp
      simp only [PixelCell.exists, decide_eq_true_eq]
      exact hp.symm
    · exact herase d hd

/-! ## The frame store -/

@[simp] theorem Memory.buffer_setBuffer_same (m : Memory) (b : Bool) (buf : Buffer) :
    (m.setBuffer b buf).buffer b = buf := by cases b <;> rfl

@[simp] theorem Memory.buffer_setBuffer_not (m : Memory) (b : Bool) (buf : Buffer) :
    (m.setBuffer (!b) buf).buffer b = m.buffer b := by cases b <;> rfl

@[simp] theorem Memory.setBuffer_buffer (m : Memory) (b : Bool) : m.setBuffer b (m.buffer b) = m := by cases b <;> rfl

@[simp] theorem Memory.setBuffer_setBuffer (m : Memory) (b : Bool) (p q : Buffer) :
    (m.setBuffer b p).setBuffer b q = m.setBuffer b q := by cases b <;> rfl

/-- A frame store is its two buffers. -/
theorem Memory.ext_buffer {m n : Memory} (h : ∀ b, m.buffer b = n.buffer b) : m = n := by
  cases m; cases n
  have h0 := h false
  have h1 := h true
  simp only [Memory.buffer] at h0 h1
  simp_all

@[simp] theorem Memory.read_write_same (m : Memory) (b : Bool) (y x : Nat) (v : Pixel) :
    (m.write b y x v).read b y x = v := by simp [Memory.read, Memory.write]

/-- A write leaves every other cell of either buffer alone. -/
theorem Memory.read_write_other (m : Memory) {b b' : Bool} {y x y' x' : Nat} (v : Pixel)
    (h : ¬(b' = b ∧ y' = y ∧ x' = x)) : (m.write b y x v).read b' y' x' = m.read b' y' x' := by
  by_cases hb : b' = b
  · subst hb
    simp only [Memory.read, Memory.write, Memory.buffer_setBuffer_same]
    exact Buffer.read_write_other _ v fun e => h ⟨rfl, e⟩
  · have : b = !b' := by cases b <;> cases b' <;> simp_all
    simp [Memory.read, Memory.write, this]

/-- A write to one buffer leaves the other alone, whole. -/
@[simp] theorem Memory.buffer_write_not (m : Memory) (b : Bool) (y x : Nat) (v : Pixel) :
    (m.write (!b) y x v).buffer b = m.buffer b := by simp [Memory.write]

@[simp] theorem Memory.write_write (m : Memory) (b : Bool) (y x : Nat) (v : Pixel) :
    (m.write b y x v).write b y x v = m.write b y x v := by simp [Memory.write]

@[simp] theorem Memory.read_clear_same (m : Memory) (b : Bool) (y x : Nat) : (m.clear b).read b y x = 0#3 := by
  simp [Memory.read, Memory.clear, unlistedPixel]

@[simp] theorem Memory.buffer_clear_same (m : Memory) (b : Bool) : (m.clear b).buffer b = [] := by simp [Memory.clear]

@[simp] theorem Memory.buffer_clear_not (m : Memory) (b : Bool) : (m.clear (!b)).buffer b = m.buffer b := by
  simp [Memory.clear]

@[simp] theorem Memory.clear_clear (m : Memory) (b : Bool) : (m.clear b).clear b = m.clear b := by simp [Memory.clear]

theorem Memory.wf_iff (m : Memory) : m.wf = true ↔ ∀ b, Buffer.canonical (m.buffer b) = true := by
  simp [Memory.wf, Memory.buffer]

theorem Memory.bounded_iff (c : Config) (m : Memory) :
    m.bounded c = true ↔ ∀ b, (m.buffer b).all (PixelCell.exists c) = true := by
  simp only [Memory.bounded, Memory.buffer, Bool.and_eq_true, Bool.forall_bool, if_true]
  simp

theorem Memory.wf_blank : Memory.blank.wf = true := rfl

theorem Memory.bounded_blank (c : Config) : Memory.blank.bounded c = true := rfl

theorem Memory.wf_setBuffer {m : Memory} {buf : Buffer} (b : Bool) (hm : m.wf = true)
    (hb : Buffer.canonical buf = true) : (m.setBuffer b buf).wf = true := by
  rw [Memory.wf_iff] at *
  intro b'
  by_cases h : b' = b
  · subst h; simpa using hb
  · have : b = !b' := by cases b <;> cases b' <;> simp_all
    subst this; simpa using hm b'

theorem Memory.bounded_setBuffer {c : Config} {m : Memory} {buf : Buffer} (b : Bool) (hm : m.bounded c = true)
    (hb : buf.all (PixelCell.exists c) = true) : (m.setBuffer b buf).bounded c = true := by
  rw [Memory.bounded_iff] at *
  intro b'
  by_cases h : b' = b
  · subst h; simpa using hb
  · have : b = !b' := by cases b <;> cases b' <;> simp_all
    subst this; simpa using hm b'

/-- A write keeps the canonical form. -/
theorem Memory.wf_write {m : Memory} (b : Bool) (y x : Nat) (v : Pixel) (h : m.wf = true) :
    (m.write b y x v).wf = true :=
  Memory.wf_setBuffer b h (Buffer.canonical_write y x v ((Memory.wf_iff m).mp h b))

/-- Clearing a buffer keeps the canonical form. -/
theorem Memory.wf_clear {m : Memory} (b : Bool) (h : m.wf = true) : (m.clear b).wf = true :=
  Memory.wf_setBuffer b h rfl

theorem Memory.bounded_write {c : Config} {m : Memory} (b : Bool) {y x : Nat} (v : Pixel)
    (hp : inPhysical c { x := x, y := y } = true) (h : m.bounded c = true) : (m.write b y x v).bounded c = true :=
  Memory.bounded_setBuffer b h (Buffer.bounded_write v hp ((Memory.bounded_iff c m).mp h b))

theorem Memory.bounded_clear {c : Config} {m : Memory} (b : Bool) (h : m.bounded c = true) :
    (m.clear b).bounded c = true := Memory.bounded_setBuffer b h rfl

/-- A fetch sees one buffer only. -/
theorem fbRead_congr {c : Config} {m n : Memory} {b : Bool} (h : n.buffer b = m.buffer b) (y x : Nat) :
    fbRead c n b y x = fbRead c m b y x := by simp [fbRead, Memory.read, h]

end Sys2Proof.Machine
end

