-- ==== Sys2Proof/Laws/Operands.lean ====
section
/-! SUPPORT. What a valid configuration gives, and where the mapped and the fetched positions lie. -/

namespace Sys2Proof

theorem Config.valid_iff (c : Config) :
    c.valid = true ↔ 1 ≤ c.panelWidth ∧ 1 ≤ c.panelHeight ∧ 1 ≤ c.nHor ∧ 1 ≤ c.nVer ∧ c.panelHeight % 4 = 0
      ∧ c.scanRows ≤ 8 ∧ c.logWidth ≤ 32768 ∧ c.logHeight ≤ 32768 ∧ 1 ≤ c.maxDuty := by
  simp [Config.valid]

/-- A valid configuration has 1 to 8 sub-rows, four rows to each. -/
theorem Config.scanRows_of_valid {c : Config} (h : c.valid = true) :
    1 ≤ c.scanRows ∧ c.scanRows ≤ 8 ∧ c.panelHeight = 4 * c.scanRows := by
  have := (Config.valid_iff c).mp h
  simp only [Config.scanRows] at *
  omega

/-- A valid configuration has at least one panel. -/
theorem Config.nPanels_of_valid {c : Config} (h : c.valid = true) : 1 ≤ c.nPanels := by
  have := (Config.valid_iff c).mp h
  exact Nat.mul_pos this.2.2.1 this.2.2.2.1

/-- A valid configuration has at least two column steps (R101). -/
theorem Config.ncols_of_valid {c : Config} (h : c.valid = true) : 2 ≤ c.ncols := by
  have h1 := (Config.valid_iff c).mp h
  have h2 : 1 ≤ c.panelWidth * c.nPanels := Nat.mul_pos h1.1 (Config.nPanels_of_valid h)
  simp only [Config.ncols]
  omega

end Sys2Proof

namespace Sys2Proof.Machine

theorem inLogicalGrid_iff (c : Config) (x y : Int) :
    inLogicalGrid c x y = true ↔ 0 ≤ x ∧ x < (c.logWidth : Int) ∧ 0 ≤ y ∧ y < (c.logHeight : Int) := by
  simp [inLogicalGrid]

theorem inPhysical_iff (c : Config) (p : Pos) :
    inPhysical c p = true ↔ p.x < c.phyWidth ∧ p.y < c.phyHeight := by simp [inPhysical]

/-- A column of group `q` of `n` groups of `w` columns lies below `w * n`. -/
theorem group_col_lt {w n q r : Nat} (hq : q < n) (hr : r < w) : q * w + r < w * n := by
  have h : (q + 1) * w ≤ n * w := Nat.mul_le_mul_right w hq
  rw [Nat.mul_comm w n]
  rw [Nat.add_mul] at h
  omega

/-- The chain index of a panel of the grid lies below the panel count (R74). -/
theorem chainIndex_lt {h v r k : Nat} (hr : r < v) (hk : k < h) : r * h + k < h * v := group_col_lt hr hk

/-- The mapped position of a coordinate inside the grid lies inside the buffer, under any configuration (R74). -/
theorem mapPos_inPhysical {c : Config} {x y : Nat} (hx : x < c.logWidth) (hy : y < c.logHeight) :
    inPhysical c (mapPos c x y) = true := by
  rw [inPhysical_iff]
  have hw : 0 < c.panelWidth := by
    rcases Nat.eq_zero_or_pos c.panelWidth with h | h
    · simp [Config.logWidth, h] at hx
    · exact h
  have hh : 0 < c.panelHeight := by
    rcases Nat.eq_zero_or_pos c.panelHeight with h | h
    · simp [Config.logHeight, h] at hy
    · exact h
  have hcol : x / c.panelWidth < c.nHor := Nat.div_lt_of_lt_mul hx
  have hrow : y / c.panelHeight < c.nVer := Nat.div_lt_of_lt_mul hy
  exact ⟨group_col_lt (chainIndex_lt hrow hcol) (Nat.mod_lt x hw), Nat.mod_lt y hh⟩

theorem mapPos_inPhysical_of_grid {c : Config} {x y : Int} (h : inLogicalGrid c x y = true) :
    inPhysical c (mapPos c x.toNat y.toNat) = true := by
  have := (inLogicalGrid_iff c x y).mp h
  exact mapPos_inPhysical (by omega) (by omega)

end Sys2Proof.Machine
end

