-- ==== Sys2Proof/Laws/State.lean ====
section
/-! SUPPORT. One lemma per field of `State` for each named update, so that no later proof unfolds one. -/

namespace Sys2Proof.Machine

/-! ## `advance` -/

@[simp] theorem State.advance_cfg (s : State) : (s.advance).cfg = s.cfg := rfl
@[simp] theorem State.advance_mem (s : State) : (s.advance).mem = s.mem := rfl
@[simp] theorem State.advance_frontSel (s : State) : (s.advance).frontSel = s.frontSel := rfl
@[simp] theorem State.advance_swapPending (s : State) : (s.advance).swapPending = s.swapPending := rfl
@[simp] theorem State.advance_bright (s : State) : (s.advance).bright = s.bright := rfl
@[simp] theorem State.advance_cfgFault (s : State) : (s.advance).cfgFault = s.cfgFault := rfl
@[simp] theorem State.advance_illCmd (s : State) : (s.advance).illCmd = s.illCmd := rfl
@[simp] theorem State.advance_intFault (s : State) : (s.advance).intFault = s.intFault := rfl
@[simp] theorem State.advance_badCmd (s : State) : (s.advance).badCmd = s.badCmd := rfl
@[simp] theorem State.advance_phase (s : State) : (s.advance).phase = s.phase := rfl
@[simp] theorem State.advance_row (s : State) : (s.advance).row = s.row := rfl
@[simp] theorem State.advance_col (s : State) : (s.advance).col = s.col := rfl
@[simp] theorem State.advance_oeEn (s : State) : (s.advance).oeEn = s.oeEn := rfl
@[simp] theorem State.advance_colorUp (s : State) : (s.advance).colorUp = s.colorUp := rfl
@[simp] theorem State.advance_colorLo (s : State) : (s.advance).colorLo = s.colorLo := rfl
@[simp] theorem State.advance_addr (s : State) : (s.advance).addr = s.addr := rfl
@[simp] theorem State.advance_clkR (s : State) : (s.advance).clkR = s.clkR := rfl
@[simp] theorem State.advance_latR (s : State) : (s.advance).latR = s.latR := rfl
@[simp] theorem State.advance_ci (s : State) : (s.advance).ci = s.ci + 1 := rfl
@[simp] theorem State.advance_program (s : State) : (s.advance).program = s.program := rfl
@[simp] theorem State.advance_turns (s : State) : (s.advance).turns = s.turns := rfl
@[simp] theorem State.advance_rst (s : State) : (s.advance).rst = s.rst := rfl

/-! ## `setMem` -/

@[simp] theorem State.setMem_cfg (s : State) (m : Memory) : (s.setMem m).cfg = s.cfg := rfl
@[simp] theorem State.setMem_mem (s : State) (m : Memory) : (s.setMem m).mem = m := rfl
@[simp] theorem State.setMem_frontSel (s : State) (m : Memory) : (s.setMem m).frontSel = s.frontSel := rfl
@[simp] theorem State.setMem_swapPending (s : State) (m : Memory) : (s.setMem m).swapPending = s.swapPending := rfl
@[simp] theorem State.setMem_bright (s : State) (m : Memory) : (s.setMem m).bright = s.bright := rfl
@[simp] theorem State.setMem_cfgFault (s : State) (m : Memory) : (s.setMem m).cfgFault = s.cfgFault := rfl
@[simp] theorem State.setMem_illCmd (s : State) (m : Memory) : (s.setMem m).illCmd = s.illCmd := rfl
@[simp] theorem State.setMem_intFault (s : State) (m : Memory) : (s.setMem m).intFault = s.intFault := rfl
@[simp] theorem State.setMem_badCmd (s : State) (m : Memory) : (s.setMem m).badCmd = s.badCmd := rfl
@[simp] theorem State.setMem_phase (s : State) (m : Memory) : (s.setMem m).phase = s.phase := rfl
@[simp] theorem State.setMem_row (s : State) (m : Memory) : (s.setMem m).row = s.row := rfl
@[simp] theorem State.setMem_col (s : State) (m : Memory) : (s.setMem m).col = s.col := rfl
@[simp] theorem State.setMem_oeEn (s : State) (m : Memory) : (s.setMem m).oeEn = s.oeEn := rfl
@[simp] theorem State.setMem_colorUp (s : State) (m : Memory) : (s.setMem m).colorUp = s.colorUp := rfl
@[simp] theorem State.setMem_colorLo (s : State) (m : Memory) : (s.setMem m).colorLo = s.colorLo := rfl
@[simp] theorem State.setMem_addr (s : State) (m : Memory) : (s.setMem m).addr = s.addr := rfl
@[simp] theorem State.setMem_clkR (s : State) (m : Memory) : (s.setMem m).clkR = s.clkR := rfl
@[simp] theorem State.setMem_latR (s : State) (m : Memory) : (s.setMem m).latR = s.latR := rfl
@[simp] theorem State.setMem_ci (s : State) (m : Memory) : (s.setMem m).ci = s.ci := rfl
@[simp] theorem State.setMem_program (s : State) (m : Memory) : (s.setMem m).program = s.program := rfl
@[simp] theorem State.setMem_turns (s : State) (m : Memory) : (s.setMem m).turns = s.turns := rfl
@[simp] theorem State.setMem_rst (s : State) (m : Memory) : (s.setMem m).rst = s.rst := rfl

/-! ## `popTurn` -/

@[simp] theorem State.popTurn_cfg (s : State) : (s.popTurn).cfg = s.cfg := rfl
@[simp] theorem State.popTurn_mem (s : State) : (s.popTurn).mem = s.mem := rfl
@[simp] theorem State.popTurn_frontSel (s : State) : (s.popTurn).frontSel = s.frontSel := rfl
@[simp] theorem State.popTurn_swapPending (s : State) : (s.popTurn).swapPending = s.swapPending := rfl
@[simp] theorem State.popTurn_bright (s : State) : (s.popTurn).bright = s.bright := rfl
@[simp] theorem State.popTurn_cfgFault (s : State) : (s.popTurn).cfgFault = s.cfgFault := rfl
@[simp] theorem State.popTurn_illCmd (s : State) : (s.popTurn).illCmd = s.illCmd := rfl
@[simp] theorem State.popTurn_intFault (s : State) : (s.popTurn).intFault = s.intFault := rfl
@[simp] theorem State.popTurn_badCmd (s : State) : (s.popTurn).badCmd = s.badCmd := rfl
@[simp] theorem State.popTurn_phase (s : State) : (s.popTurn).phase = s.phase := rfl
@[simp] theorem State.popTurn_row (s : State) : (s.popTurn).row = s.row := rfl
@[simp] theorem State.popTurn_col (s : State) : (s.popTurn).col = s.col := rfl
@[simp] theorem State.popTurn_oeEn (s : State) : (s.popTurn).oeEn = s.oeEn := rfl
@[simp] theorem State.popTurn_colorUp (s : State) : (s.popTurn).colorUp = s.colorUp := rfl
@[simp] theorem State.popTurn_colorLo (s : State) : (s.popTurn).colorLo = s.colorLo := rfl
@[simp] theorem State.popTurn_addr (s : State) : (s.popTurn).addr = s.addr := rfl
@[simp] theorem State.popTurn_clkR (s : State) : (s.popTurn).clkR = s.clkR := rfl
@[simp] theorem State.popTurn_latR (s : State) : (s.popTurn).latR = s.latR := rfl
@[simp] theorem State.popTurn_ci (s : State) : (s.popTurn).ci = s.ci := rfl
@[simp] theorem State.popTurn_program (s : State) : (s.popTurn).program = s.program := rfl
@[simp] theorem State.popTurn_turns (s : State) : (s.popTurn).turns = s.turns.tail := rfl
@[simp] theorem State.popTurn_rst (s : State) : (s.popTurn).rst = s.rst := rfl

/-! ## `afterReset` -/

@[simp] theorem State.afterReset_cfg (s : State) : (s.afterReset).cfg = s.cfg := rfl
@[simp] theorem State.afterReset_mem (s : State) : (s.afterReset).mem = (State.resetOf s.cfg).mem := rfl
@[simp] theorem State.afterReset_frontSel (s : State) : (s.afterReset).frontSel = (State.resetOf s.cfg).frontSel := rfl
@[simp] theorem State.afterReset_swapPending (s : State) : (s.afterReset).swapPending = (State.resetOf s.cfg).swapPending := rfl
@[simp] theorem State.afterReset_bright (s : State) : (s.afterReset).bright = (State.resetOf s.cfg).bright := rfl
@[simp] theorem State.afterReset_cfgFault (s : State) : (s.afterReset).cfgFault = (State.resetOf s.cfg).cfgFault := rfl
@[simp] theorem State.afterReset_illCmd (s : State) : (s.afterReset).illCmd = (State.resetOf s.cfg).illCmd := rfl
@[simp] theorem State.afterReset_intFault (s : State) : (s.afterReset).intFault = (State.resetOf s.cfg).intFault := rfl
@[simp] theorem State.afterReset_badCmd (s : State) : (s.afterReset).badCmd = (State.resetOf s.cfg).badCmd := rfl
@[simp] theorem State.afterReset_phase (s : State) : (s.afterReset).phase = (State.resetOf s.cfg).phase := rfl
@[simp] theorem State.afterReset_row (s : State) : (s.afterReset).row = (State.resetOf s.cfg).row := rfl
@[simp] theorem State.afterReset_col (s : State) : (s.afterReset).col = (State.resetOf s.cfg).col := rfl
@[simp] theorem State.afterReset_oeEn (s : State) : (s.afterReset).oeEn = (State.resetOf s.cfg).oeEn := rfl
@[simp] theorem State.afterReset_colorUp (s : State) : (s.afterReset).colorUp = (State.resetOf s.cfg).colorUp := rfl
@[simp] theorem State.afterReset_colorLo (s : State) : (s.afterReset).colorLo = (State.resetOf s.cfg).colorLo := rfl
@[simp] theorem State.afterReset_addr (s : State) : (s.afterReset).addr = (State.resetOf s.cfg).addr := rfl
@[simp] theorem State.afterReset_clkR (s : State) : (s.afterReset).clkR = (State.resetOf s.cfg).clkR := rfl
@[simp] theorem State.afterReset_latR (s : State) : (s.afterReset).latR = (State.resetOf s.cfg).latR := rfl
@[simp] theorem State.afterReset_ci (s : State) : (s.afterReset).ci = (State.resetOf s.cfg).ci := rfl
@[simp] theorem State.afterReset_program (s : State) : (s.afterReset).program = s.program := rfl
@[simp] theorem State.afterReset_turns (s : State) : (s.afterReset).turns = s.turns := rfl
@[simp] theorem State.afterReset_rst (s : State) : (s.afterReset).rst = s.rst := rfl

/-! ## `enterReset` -/

@[simp] theorem State.enterReset_cfg (s : State) : (s.enterReset).cfg = s.cfg := rfl
@[simp] theorem State.enterReset_mem (s : State) : (s.enterReset).mem = (State.resetOf s.cfg).mem := rfl
@[simp] theorem State.enterReset_frontSel (s : State) : (s.enterReset).frontSel = (State.resetOf s.cfg).frontSel := rfl
@[simp] theorem State.enterReset_swapPending (s : State) : (s.enterReset).swapPending = (State.resetOf s.cfg).swapPending := rfl
@[simp] theorem State.enterReset_bright (s : State) : (s.enterReset).bright = (State.resetOf s.cfg).bright := rfl
@[simp] theorem State.enterReset_cfgFault (s : State) : (s.enterReset).cfgFault = (State.resetOf s.cfg).cfgFault := rfl
@[simp] theorem State.enterReset_illCmd (s : State) : (s.enterReset).illCmd = (State.resetOf s.cfg).illCmd := rfl
@[simp] theorem State.enterReset_intFault (s : State) : (s.enterReset).intFault = (State.resetOf s.cfg).intFault := rfl
@[simp] theorem State.enterReset_badCmd (s : State) : (s.enterReset).badCmd = (State.resetOf s.cfg).badCmd := rfl
@[simp] theorem State.enterReset_phase (s : State) : (s.enterReset).phase = (State.resetOf s.cfg).phase := rfl
@[simp] theorem State.enterReset_row (s : State) : (s.enterReset).row = (State.resetOf s.cfg).row := rfl
@[simp] theorem State.enterReset_col (s : State) : (s.enterReset).col = (State.resetOf s.cfg).col := rfl
@[simp] theorem State.enterReset_oeEn (s : State) : (s.enterReset).oeEn = (State.resetOf s.cfg).oeEn := rfl
@[simp] theorem State.enterReset_colorUp (s : State) : (s.enterReset).colorUp = (State.resetOf s.cfg).colorUp := rfl
@[simp] theorem State.enterReset_colorLo (s : State) : (s.enterReset).colorLo = (State.resetOf s.cfg).colorLo := rfl
@[simp] theorem State.enterReset_addr (s : State) : (s.enterReset).addr = (State.resetOf s.cfg).addr := rfl
@[simp] theorem State.enterReset_clkR (s : State) : (s.enterReset).clkR = (State.resetOf s.cfg).clkR := rfl
@[simp] theorem State.enterReset_latR (s : State) : (s.enterReset).latR = (State.resetOf s.cfg).latR := rfl
@[simp] theorem State.enterReset_ci (s : State) : (s.enterReset).ci = (State.resetOf s.cfg).ci := rfl
@[simp] theorem State.enterReset_program (s : State) : (s.enterReset).program = s.program := rfl
@[simp] theorem State.enterReset_turns (s : State) : (s.enterReset).turns = s.turns.tail := rfl
@[simp] theorem State.enterReset_rst (s : State) : (s.enterReset).rst = true := rfl

/-! ## `leaveReset` -/

@[simp] theorem State.leaveReset_cfg (s : State) : (s.leaveReset).cfg = s.cfg := rfl
@[simp] theorem State.leaveReset_mem (s : State) : (s.leaveReset).mem = s.mem := rfl
@[simp] theorem State.leaveReset_frontSel (s : State) : (s.leaveReset).frontSel = s.frontSel := rfl
@[simp] theorem State.leaveReset_swapPending (s : State) : (s.leaveReset).swapPending = s.swapPending := rfl
@[simp] theorem State.leaveReset_bright (s : State) : (s.leaveReset).bright = s.bright := rfl
@[simp] theorem State.leaveReset_cfgFault (s : State) : (s.leaveReset).cfgFault = s.cfgFault := rfl
@[simp] theorem State.leaveReset_illCmd (s : State) : (s.leaveReset).illCmd = s.illCmd := rfl
@[simp] theorem State.leaveReset_intFault (s : State) : (s.leaveReset).intFault = s.intFault := rfl
@[simp] theorem State.leaveReset_badCmd (s : State) : (s.leaveReset).badCmd = s.badCmd := rfl
@[simp] theorem State.leaveReset_phase (s : State) : (s.leaveReset).phase = s.phase := rfl
@[simp] theorem State.leaveReset_row (s : State) : (s.leaveReset).row = s.row := rfl
@[simp] theorem State.leaveReset_col (s : State) : (s.leaveReset).col = s.col := rfl
@[simp] theorem State.leaveReset_oeEn (s : State) : (s.leaveReset).oeEn = s.oeEn := rfl
@[simp] theorem State.leaveReset_colorUp (s : State) : (s.leaveReset).colorUp = s.colorUp := rfl
@[simp] theorem State.leaveReset_colorLo (s : State) : (s.leaveReset).colorLo = s.colorLo := rfl
@[simp] theorem State.leaveReset_addr (s : State) : (s.leaveReset).addr = s.addr := rfl
@[simp] theorem State.leaveReset_clkR (s : State) : (s.leaveReset).clkR = s.clkR := rfl
@[simp] theorem State.leaveReset_latR (s : State) : (s.leaveReset).latR = s.latR := rfl
@[simp] theorem State.leaveReset_ci (s : State) : (s.leaveReset).ci = s.ci := rfl
@[simp] theorem State.leaveReset_program (s : State) : (s.leaveReset).program = s.program := rfl
@[simp] theorem State.leaveReset_turns (s : State) : (s.leaveReset).turns = s.turns := rfl
@[simp] theorem State.leaveReset_rst (s : State) : (s.leaveReset).rst = false := rfl

/-- A reset state is its own reset state. -/
@[simp] theorem State.afterReset_enterReset (s : State) : s.enterReset.afterReset = s.enterReset := rfl

/-- Releasing `rst` commutes with taking the reset values. -/
@[simp] theorem State.afterReset_leaveReset (s : State) : s.leaveReset.afterReset = s.afterReset.leaveReset := rfl

/-! ## `raiseFault` -/

@[simp] theorem State.raiseFault_cfg (s : State) (f : FaultCause) : (s.raiseFault f).cfg = s.cfg := by cases f <;> rfl
@[simp] theorem State.raiseFault_mem (s : State) (f : FaultCause) : (s.raiseFault f).mem = s.mem := by cases f <;> rfl
@[simp] theorem State.raiseFault_frontSel (s : State) (f : FaultCause) : (s.raiseFault f).frontSel = s.frontSel := by cases f <;> rfl
@[simp] theorem State.raiseFault_swapPending (s : State) (f : FaultCause) : (s.raiseFault f).swapPending = s.swapPending := by cases f <;> rfl
@[simp] theorem State.raiseFault_bright (s : State) (f : FaultCause) : (s.raiseFault f).bright = s.bright := by cases f <;> rfl
@[simp] theorem State.raiseFault_phase (s : State) (f : FaultCause) : (s.raiseFault f).phase = s.phase := by cases f <;> rfl
@[simp] theorem State.raiseFault_row (s : State) (f : FaultCause) : (s.raiseFault f).row = s.row := by cases f <;> rfl
@[simp] theorem State.raiseFault_col (s : State) (f : FaultCause) : (s.raiseFault f).col = s.col := by cases f <;> rfl
@[simp] theorem State.raiseFault_oeEn (s : State) (f : FaultCause) : (s.raiseFault f).oeEn = s.oeEn := by cases f <;> rfl
@[simp] theorem State.raiseFault_colorUp (s : State) (f : FaultCause) : (s.raiseFault f).colorUp = s.colorUp := by cases f <;> rfl
@[simp] theorem State.raiseFault_colorLo (s : State) (f : FaultCause) : (s.raiseFault f).colorLo = s.colorLo := by cases f <;> rfl
@[simp] theorem State.raiseFault_addr (s : State) (f : FaultCause) : (s.raiseFault f).addr = s.addr := by cases f <;> rfl
@[simp] theorem State.raiseFault_clkR (s : State) (f : FaultCause) : (s.raiseFault f).clkR = s.clkR := by cases f <;> rfl
@[simp] theorem State.raiseFault_latR (s : State) (f : FaultCause) : (s.raiseFault f).latR = s.latR := by cases f <;> rfl
@[simp] theorem State.raiseFault_ci (s : State) (f : FaultCause) : (s.raiseFault f).ci = s.ci := by cases f <;> rfl
@[simp] theorem State.raiseFault_program (s : State) (f : FaultCause) : (s.raiseFault f).program = s.program := by cases f <;> rfl
@[simp] theorem State.raiseFault_turns (s : State) (f : FaultCause) : (s.raiseFault f).turns = s.turns := by cases f <;> rfl
@[simp] theorem State.raiseFault_rst (s : State) (f : FaultCause) : (s.raiseFault f).rst = s.rst := by cases f <;> rfl

theorem State.raiseFault_config (s : State) : s.raiseFault .config = { s with cfgFault := true } := rfl

theorem State.raiseFault_illegalCommand (s : State) (w : Word64) :
    s.raiseFault (.illegalCommand w) = { s with illCmd := true, badCmd := if s.illCmd then s.badCmd else w } := rfl

theorem State.raiseFault_internalConsistency (s : State) :
    s.raiseFault .internalConsistency = { s with intFault := true } := rfl

/-- No raise clears a fault bit (R137). -/
theorem State.raiseFault_sticky (s : State) (f : FaultCause) :
    (s.cfgFault = true → (s.raiseFault f).cfgFault = true) ∧ (s.illCmd = true → (s.raiseFault f).illCmd = true)
      ∧ (s.intFault = true → (s.raiseFault f).intFault = true)
      ∧ (s.illCmd = true → (s.raiseFault f).badCmd = s.badCmd) := by
  cases f <;> simp +contextual [State.raiseFault]

@[simp] theorem State.setMem_self (s : State) : s.setMem s.mem = s := rfl

@[simp] theorem State.setMem_setMem (s : State) (m n : Memory) : (s.setMem m).setMem n = s.setMem n := rfl

@[simp] theorem State.backSel_eq (s : State) : s.backSel = !s.frontSel := rfl

end Sys2Proof.Machine
end

