-- ==== Sys2Proof/Laws/Commands.lean ====
section
/-! SUPPORT. What each command does, one equation each, and the inversion lemma of `exec`. -/

namespace Sys2Proof.Machine

theorem State.writeBack_of_inPhysical {s : State} {p : Pos} (color : Pixel) (h : inPhysical s.cfg p = true) :
    s.writeBack p color = s.setMem (s.mem.write s.backSel p.y p.x color) := by simp [State.writeBack, h]

theorem State.writeBack_of_not_inPhysical {s : State} {p : Pos} (color : Pixel) (h : inPhysical s.cfg p = false) :
    s.writeBack p color = s.raiseFault .internalConsistency := by simp [State.writeBack, h]

theorem execSetpx_inside {s : State} {x y : Int} (color : Pixel) (h : inLogicalGrid s.cfg x y = true) :
    execSetpx x y color s =
      .next (s.setMem (s.mem.write s.backSel (mapPos s.cfg x.toNat y.toNat).y (mapPos s.cfg x.toNat y.toNat).x
        color)).advance := by
  rw [execSetpx, if_pos h, State.writeBack_of_inPhysical color (mapPos_inPhysical_of_grid h)]

theorem execSetpx_outside {s : State} {x y : Int} (color : Pixel) (h : inLogicalGrid s.cfg x y = false) :
    execSetpx x y color s = .next s.advance := by simp [execSetpx, h]

/-- Everything a command can do: it advances `CI`, and beside that it writes one cell of the back buffer, clears the back
buffer, requests the swap, sets the level, or nothing. -/
theorem exec_cases {i : Instr} {s t : State} (h : exec i s = .next t) :
    (t = s.advance ∧ (i = .nop ∨ ∃ x y c, i = .setpx x y c ∧ inLogicalGrid s.cfg x y = false))
      ∨ (∃ x y c, i = .setpx x y c ∧ inLogicalGrid s.cfg x y = true
          ∧ t = (s.setMem (s.mem.write s.backSel (mapPos s.cfg x.toNat y.toNat).y (mapPos s.cfg x.toNat y.toNat).x
              c)).advance)
      ∨ (i = .clrb ∧ t = (s.setMem (s.mem.clear s.backSel)).advance)
      ∨ (i = .swap ∧ t = { s with swapPending := true }.advance)
      ∨ (∃ l, i = .bright l ∧ t = { s with bright := l }.advance) := by
  cases i with
  | nop => exact .inl ⟨(Host.Outcome.next.inj h).symm, .inl rfl⟩
  | setpx x y c =>
    by_cases hg : inLogicalGrid s.cfg x y = true
    · rw [exec, execSetpx_inside c hg] at h
      exact .inr (.inl ⟨x, y, c, rfl, hg, (Host.Outcome.next.inj h).symm⟩)
    · rw [exec, execSetpx_outside c (Bool.eq_false_iff.mpr hg)] at h
      exact .inl ⟨(Host.Outcome.next.inj h).symm, .inr ⟨x, y, c, rfl, Bool.eq_false_iff.mpr hg⟩⟩
  | clrb => exact .inr (.inr (.inl ⟨rfl, (Host.Outcome.next.inj h).symm⟩))
  | swap => exact .inr (.inr (.inr (.inl ⟨rfl, (Host.Outcome.next.inj h).symm⟩)))
  | bright l => exact .inr (.inr (.inr (.inr ⟨l, rfl, (Host.Outcome.next.inj h).symm⟩)))

end Sys2Proof.Machine
end

