-- ==== Sys2Proof/Laws/Engine.lean ====
section
/-! SUPPORT. The engine step phase by phase, and what no engine step writes. -/

namespace Sys2Proof.Machine

/-! ## The step of each phase -/

theorem engineStep_of_disable {s : State} (h : s.phase = .disable) : engineStep s = engineDisable s := by simp [engineStep, h]

theorem engineStep_of_frameSync {s : State} (h : s.phase = .frameSync) : engineStep s = engineFrameSync s := by simp [engineStep, h]

theorem engineStep_of_settle {s : State} (h : s.phase = .settle) : engineStep s = engineSettle s := by simp [engineStep, h]

theorem engineStep_of_rowsel {s : State} (h : s.phase = .rowsel) : engineStep s = engineRowsel s := by simp [engineStep, h]

theorem engineStep_of_shiftData {s : State} (h : s.phase = .shiftData) : engineStep s = engineShiftData s := by simp [engineStep, h]

theorem engineStep_of_clkHi {s : State} (h : s.phase = .clkHi) : engineStep s = engineClkHi s := by simp [engineStep, h]

theorem engineStep_of_clkLo {s : State} (h : s.phase = .clkLo) : engineStep s = engineClkLo s := by simp [engineStep, h]

theorem engineStep_of_latHi {s : State} (h : s.phase = .latHi) : engineStep s = engineLatHi s := by simp [engineStep, h]

theorem engineStep_of_latLo {s : State} (h : s.phase = .latLo) : engineStep s = engineLatLo s := by simp [engineStep, h]

theorem engineStep_of_enable {s : State} (h : s.phase = .enable) : engineStep s = engineEnable s := by simp [engineStep, h]

theorem engineStep_of_hold {s : State} (h : s.phase = .hold) : engineStep s = engineHold s := by simp [engineStep, h]

/-! ## The two branching steps, field by field -/

theorem engineFrameSync_fields (s : State) :
    engineFrameSync s =
      { s with
        frontSel := if s.swapPending = true then !s.frontSel else s.frontSel
        swapPending := false
        phase := .settle } := by
  unfold engineFrameSync
  cases h : s.swapPending <;> cases s <;> simp_all

theorem engineClkLo_fields (s : State) :
    engineClkLo s =
      { s with
        clkR := false
        col := if s.col + 1 < s.cfg.ncols then s.col + 1 else s.col
        phase := if s.col + 1 < s.cfg.ncols then .shiftData else .latHi } := by
  unfold engineClkLo
  split <;> rfl

/-! ## What no engine step writes -/

@[simp] theorem engineStep_cfg (s : State) : (engineStep s).cfg = s.cfg := by
  unfold engineStep engineFrameSync engineClkLo
  repeat' split
  all_goals rfl

@[simp] theorem engineStep_mem (s : State) : (engineStep s).mem = s.mem := by
  unfold engineStep engineFrameSync engineClkLo
  repeat' split
  all_goals rfl

@[simp] theorem engineStep_bright (s : State) : (engineStep s).bright = s.bright := by
  unfold engineStep engineFrameSync engineClkLo
  repeat' split
  all_goals rfl

@[simp] theorem engineStep_cfgFault (s : State) : (engineStep s).cfgFault = s.cfgFault := by
  unfold engineStep engineFrameSync engineClkLo
  repeat' split
  all_goals rfl

@[simp] theorem engineStep_illCmd (s : State) : (engineStep s).illCmd = s.illCmd := by
  unfold engineStep engineFrameSync engineClkLo
  repeat' split
  all_goals rfl

@[simp] theorem engineStep_intFault (s : State) : (engineStep s).intFault = s.intFault := by
  unfold engineStep engineFrameSync engineClkLo
  repeat' split
  all_goals rfl

@[simp] theorem engineStep_badCmd (s : State) : (engineStep s).badCmd = s.badCmd := by
  unfold engineStep engineFrameSync engineClkLo
  repeat' split
  all_goals rfl

@[simp] theorem engineStep_ci (s : State) : (engineStep s).ci = s.ci := by
  unfold engineStep engineFrameSync engineClkLo
  repeat' split
  all_goals rfl

@[simp] theorem engineStep_program (s : State) : (engineStep s).program = s.program := by
  unfold engineStep engineFrameSync engineClkLo
  repeat' split
  all_goals rfl

@[simp] theorem engineStep_turns (s : State) : (engineStep s).turns = s.turns := by
  unfold engineStep engineFrameSync engineClkLo
  repeat' split
  all_goals rfl

@[simp] theorem engineStep_rst (s : State) : (engineStep s).rst = s.rst := by
  unfold engineStep engineFrameSync engineClkLo
  repeat' split
  all_goals rfl

@[simp] theorem engineRun_zero (s : State) : engineRun 0 s = s := rfl

theorem engineRun_succ (n : Nat) (s : State) : engineRun (n + 1) s = engineRun n (engineStep s) := rfl

/-- A run of the engine in two parts. -/
theorem engineRun_add (m n : Nat) (s : State) : engineRun (m + n) s = engineRun n (engineRun m s) := by
  induction m generalizing s with
  | zero => simp
  | succ m ih => rw [Nat.succ_add, engineRun_succ, engineRun_succ, ih]

theorem engineMinTime_add (m n : Nat) (s : State) :
    engineMinTime (m + n) s = engineMinTime m s + engineMinTime n (engineRun m s) := by
  induction m generalizing s with
  | zero => simp [engineMinTime]
  | succ m ih => rw [Nat.succ_add, engineMinTime, engineMinTime, ih, engineRun_succ, Nat.add_assoc]

end Sys2Proof.Machine
end

