-- ==== Sys2Proof/Laws/Fields.lean ====
section
/-! SUPPORT. The bits of a word built field by field, and the opcode field of each format. -/

namespace Sys2Proof

/-- Bit `k` of a field placed from bit `lo` up: the field's own bit, 0 outside the field. -/
@[simp] theorem getLsbD_fieldAt {n : Nat} (w lo k : Nat) (v : BitVec n) :
    (fieldAt w lo v).getLsbD k = (decide (k < w) && (decide (lo ≤ k ∧ k < lo + n) && v.getLsbD (k - lo))) := by
  unfold fieldAt
  rw [BitVec.getLsbD_shiftLeft, BitVec.getLsbD_setWidth]
  by_cases hk : k < w
  · by_cases hlo : lo ≤ k
    · have h : k - lo < w := by omega
      by_cases hn : k < lo + n
      · simp [hk, hlo, hn, h]
      · have hout : v.getLsbD (k - lo) = false := BitVec.getLsbD_of_ge v _ (by omega)
        simp [hk, hn, hout]
    · simp [hlo, Nat.lt_of_not_le hlo]
  · simp [hk]

@[simp] theorem getElem_fieldAt {n : Nat} (w lo k : Nat) (v : BitVec n) (hk : k < w) :
    (fieldAt w lo v)[k] = (decide (lo ≤ k ∧ k < lo + n) && v.getLsbD (k - lo)) := by
  rw [← BitVec.getLsbD_eq_getElem, getLsbD_fieldAt, decide_eq_true hk, Bool.true_and]

/-- Two words are equal when all their bits are. -/
theorem word_ext {w : Nat} {a b : BitVec w} (h : ∀ k, k < w → a.getLsbD k = b.getLsbD k) : a = b :=
  BitVec.eq_of_getLsbD_eq h

theorem opField_formatP (x y : BitVec 16) (color : Pixel) (op : BitVec 4) : opField (formatP x y color op) = op := by
  apply word_ext
  intro k hk
  have hx : ¬16 ≤ k := by omega
  have hy : ¬32 ≤ k := by omega
  have h4 : ¬4 ≤ k := by omega
  have h64 : k < 64 := by omega
  simp [opField, formatP, hk, hx, hy, h4, h64]

theorem opField_formatL (level : BitVec 8) (op : BitVec 4) : opField (formatL level op) = op := by
  apply word_ext
  intro k hk
  have h8 : ¬8 ≤ k := by omega
  have h64 : k < 64 := by omega
  simp [opField, formatL, hk, h8, h64]

end Sys2Proof
end

