-- ==== Sys2Proof/Laws/Step.lean ====
section
/-! SUPPORT. Whose step comes next, and the inversion lemma of `step`: every next state is a reset, an engine step or the
acceptance of one host word. -/

namespace Sys2Proof.Machine

theorem firstEnabled_eq_some {a b : Mover × Bool} {t : Mover} (h : firstEnabled a b = some t) :
    (t = a.1 ∧ a.2 = true) ∨ (t = b.1 ∧ b.2 = true) := by
  unfold firstEnabled at h
  split at h
  · next ha => exact .inl ⟨(Option.some.inj h).symm, ha⟩
  · split at h
    · next hb => exact .inr ⟨(Option.some.inj h).symm, hb⟩
    · cases h

/-- The agent that moves is one that has a step. -/
theorem State.agentMover_cases {s : State} {t : Mover} (h : s.agentMover = some t) :
    (t = .engine ∧ s.engineEnabled = true) ∨ (t = .host ∧ s.hostEnabled = true) := by
  unfold State.agentMover at h
  split at h
  · exact firstEnabled_eq_some h
  · exact (firstEnabled_eq_some h).symm
  · exact (firstEnabled_eq_some h).symm
  · exact (firstEnabled_eq_some h).symm

/-- The step is a reset when one is due, the release when `rst` is asserted otherwise, else the step of an agent that has
one. -/
theorem State.mover_cases {s : State} {t : Mover} (h : s.mover = some t) :
    (t = .reset ∧ s.resetDue = true)
      ∨ (t = .release ∧ s.resetDue = false ∧ s.rst = true)
      ∨ (t = .engine ∧ s.engineEnabled = true ∧ s.resetDue = false ∧ s.rst = false)
      ∨ (t = .host ∧ s.hostEnabled = true ∧ s.resetDue = false ∧ s.rst = false) := by
  unfold State.mover at h
  split at h
  · next hr => exact .inl ⟨(Option.some.inj h).symm, hr⟩
  · next hr =>
    have hr := Bool.eq_false_of_not_eq_true hr
    split at h
    · next hl => exact .inr (.inl ⟨(Option.some.inj h).symm, hr, hl⟩)
    · next hl =>
      have hl := Bool.eq_false_of_not_eq_true hl
      rcases State.agentMover_cases h with ⟨ht, he⟩ | ⟨ht, he⟩
      · exact .inr (.inr (.inl ⟨ht, he, hr, hl⟩))
      · exact .inr (.inr (.inr ⟨ht, he, hr, hl⟩))

/-- The port is ready exactly when no fault of the configuration, no pending swap and no reset holds it. -/
theorem State.cmdReady_iff (s : State) :
    s.cmdReady = true ↔ s.cfgFault = false ∧ s.swapPending = false ∧ s.rst = false := by
  simp [State.cmdReady, and_assoc]

/-- The host has a step exactly when it offers a word and the port is ready. -/
theorem State.hostEnabled_iff (s : State) :
    s.hostEnabled = true ↔ (∃ w, s.offeredWord = some w) ∧ s.cmdReady = true := by
  simp [State.hostEnabled, State.cmdValid, Option.isSome_iff_exists]

@[simp] theorem State.offeredWord_popTurn (s : State) : s.popTurn.offeredWord = s.offeredWord := rfl

/-- Everything a step can do. -/
theorem step_cases {s t : State} (h : step s = .next t) :
    (s.resetDue = true ∧ t = s.enterReset)
      ∨ (s.resetDue = false ∧ s.rst = true ∧ t = s.leaveReset)
      ∨ (s.resetDue = false ∧ s.rst = false ∧ s.mover = some .engine ∧ s.engineEnabled = true ∧ t = engineStep s.popTurn)
      ∨ (s.resetDue = false ∧ s.rst = false ∧ s.mover = some .host ∧ s.cmdReady = true
          ∧ ∃ w, s.offeredWord = some w
            ∧ ((∃ i, decode w = .command i ∧ exec i s.popTurn = .next t)
              ∨ ((∃ r, decode w = .illegal r) ∧ t = acceptIllegal w s.popTurn))) := by
  unfold step at h
  cases hm : s.mover with
  | none => rw [hm] at h; cases h
  | some m =>
    rw [hm] at h
    rcases State.mover_cases hm with ⟨rfl, hr⟩ | ⟨rfl, hr, hl⟩ | ⟨rfl, he, hr, hl⟩ | ⟨rfl, he, hr, hl⟩
    · exact .inl ⟨hr, (Host.Outcome.next.inj h).symm⟩
    · exact .inr (.inl ⟨hr, hl, (Host.Outcome.next.inj h).symm⟩)
    · exact .inr (.inr (.inl ⟨hr, hl, rfl, he, (Host.Outcome.next.inj h).symm⟩))
    · obtain ⟨⟨w, hw⟩, hc⟩ := (State.hostEnabled_iff s).mp he
      refine .inr (.inr (.inr ⟨hr, hl, rfl, hc, w, hw, ?_⟩))
      replace h : hostStep s.popTurn = .next t := h
      rw [hostStep, State.offeredWord_popTurn, hw] at h
      simp only [acceptWord] at h
      split at h
      · next i hi => exact .inl ⟨i, hi, h⟩
      · next r hi => exact .inr ⟨⟨r, hi⟩, (Host.Outcome.next.inj h).symm⟩

/-! ## The step of each mover -/

theorem step_of_reset {s : State} (h : s.resetDue = true) : step s = .next s.enterReset := by
  simp [step, State.mover, h]

theorem step_of_release {s : State} (hr : s.resetDue = false) (h : s.rst = true) : step s = .next s.leaveReset := by
  simp [step, State.mover, hr, h]

theorem step_of_engine {s : State} (h : s.mover = some .engine) : step s = .next (engineStep s.popTurn) := by
  simp [step, h]

theorem step_of_host {s : State} (h : s.mover = some .host) : step s = hostStep s.popTurn := by simp [step, h]

theorem step_of_none {s : State} (h : s.mover = none) : step s = .fault .noEnabledStep := by simp [step, h]

end Sys2Proof.Machine
end

