-- ==== Sys2Proof/Laws/Observe.lean ====
section
/-! SUPPORT. The observation point of a run is its first state that meets the conditions (R161). -/

namespace Sys2Proof.Machine

theorem observationPoint_of_at {s : State} (n : Nat) (h : s.atObservationPoint = true) :
    observationPoint n s = some s := by
  cases n <;> simp [observationPoint, h]

theorem observationPoint_succ {s t : State} (n : Nat) (h : s.atObservationPoint = false) (hs : step s = .next t) :
    observationPoint (n + 1) s = observationPoint n t := by
  simp [observationPoint, h, hs]

/-- What `observationPoint` finds meets the conditions. -/
theorem atObservationPoint_of_eq_some {n : Nat} {s t : State} (h : observationPoint n s = some t) :
    t.atObservationPoint = true := by
  induction n generalizing s with
  | zero =>
    unfold observationPoint at h
    split at h
    · next ha => exact Option.some.inj h ▸ ha
    · cases h
  | succ n ih =>
    unfold observationPoint at h
    split at h
    · next ha => exact Option.some.inj h ▸ ha
    · split at h
      · exact ih h
      · cases h
      · cases h

/-- A longer search finds the same state. -/
theorem observationPoint_mono {n : Nat} {s t : State} (h : observationPoint n s = some t) :
    observationPoint (n + 1) s = some t := by
  induction n generalizing s with
  | zero =>
    unfold observationPoint at h
    split at h
    · next ha => rw [observationPoint_of_at _ ha, ← h]
    · cases h
  | succ n ih =>
    unfold observationPoint at h
    split at h
    · next ha => rw [observationPoint_of_at _ ha, ← h]
    · next ha =>
      split at h
      · next u hu => rw [observationPoint_succ _ (Bool.eq_false_of_not_eq_true ha) hu]; exact ih h
      · cases h
      · cases h

end Sys2Proof.Machine
end

