-- ==== Sys2Proof/Laws/PerInstr.lean ====
section
/-! SUPPORT. Statements per instruction. Family `OpcodeField`: the low four bits of a command's word are its opcode (R56),
so the words of two commands of different opcodes differ. -/

namespace Sys2Proof.Laws.OpcodeField

/-- Bits `w[3:0]` of the word of `i` are the opcode of `i`. -/
def Statement (i : Instr) : Prop := opField (encode i) = i.opcode

theorem nop : Statement .nop := by unfold Statement; decide

theorem setpx (x y : Int) (color : Pixel) : Statement (.setpx x y color) := opField_formatP _ _ color _

theorem clrb : Statement .clrb := by unfold Statement; decide

theorem swap : Statement .swap := by unfold Statement; decide

theorem bright (level : BitVec 8) : Statement (.bright level) := opField_formatL level _

end Sys2Proof.Laws.OpcodeField
end

