-- ==== Sys2Proof/Tests/Slice0.lean ====
section
/-! SUPPORT. The model's own tests. Expected values are those of spec/95_test_vectors.md (the vector is named) or are worked
out by hand from the rule named. The last section holds, for each obligation with hypotheses, a theorem that meets them. -/

namespace Sys2Proof.Tests

open Sys2Proof.Machine

/-! ## Helpers -/

/-- A configuration by its sizes. -/
def sized (w h hor ver duty : Nat) : Config :=
  { Config.build with panelWidth := w, panelHeight := h, nHor := hor, nVer := ver, maxDuty := duty }

/-- Configuration S of the vectors. -/
def cfgS : Config := sized 64 32 3 2 255

/-- The next state, when there is one. -/
def nextOf : Host.Outcome State Fault Refusal → Option State
  | .next t => some t
  | .fault _ => none
  | .refused _ => none

/-- Reset state of `Config.build` (configuration A of the vectors) whose host offers the words `p` and goes first. -/
def hostWith (p : List Word64) : State := { State.reset with program := p, turns := [.host] }

/-- A state of a run in phase `p` of sub-row 0, the engine's turn, the registers as that phase leaves them. -/
def engineAt (p : Phase) : State :=
  { State.reset with
    phase := p, oeEn := p == .hold, clkR := p == .clkLo, latR := p == .latLo, turns := [.engine] }

/-- What of a next state a test looks at. -/
def sees {α : Type} (o : Host.Outcome State Fault Refusal) (f : State → α) : Option α := (nextOf o).map f

/-! ## Well-formedness: each check has a term that it refuses -/

theorem test_wf_refuses_x_too_large : (Instr.setpx 32768 0 1#3).wellFormed = false := by decide
theorem test_wf_refuses_x_too_small : (Instr.setpx (-32769) 0 1#3).wellFormed = false := by decide
theorem test_wf_refuses_y_too_large : (Instr.setpx 0 32768 1#3).wellFormed = false := by decide
theorem test_wf_refuses_y_too_small : (Instr.setpx 0 (-32769) 1#3).wellFormed = false := by decide
theorem test_wf_takes_the_extremes : (Instr.setpx (-32768) 32767 7#3).wellFormed = true := by decide

/-! ## Decoding: words from 95_test_vectors.md part 2.3 and R66 -/

/-- E1, and `NOP` with bit 63, 16 or 4 set (E23, E24, E14). -/
theorem test_decode_nop :
    decode 0x0000000000000000#64 = .command .nop ∧ decode 0x8000000000000000#64 = .illegal .reservedField
      ∧ decode 0x0000000000010000#64 = .illegal .reservedField
      ∧ decode 0x0000000000000010#64 = .illegal .reservedField := by decide

/-- E9, E10, E11: sign extension of each field. -/
theorem test_decode_setpx :
    decode 0x00007FFF80000071#64 = .command (.setpx (-32768) 32767 7#3)
      ∧ decode 0x000080007FFF0001#64 = .command (.setpx 32767 (-32768) 0#3)
      ∧ decode 0x00000000FFFF0001#64 = .command (.setpx (-1) 0 0#3) := by decide

/-- E19 to E22: each end of the two reserved fields of format P. -/
theorem test_decode_setpx_reserved :
    decode 0x0000000000000081#64 = .illegal .reservedField ∧ decode 0x0000000000000101#64 = .illegal .reservedField
      ∧ decode 0x0001000000000001#64 = .illegal .reservedField
      ∧ decode 0x8000000000000001#64 = .illegal .reservedField := by decide

/-- E3, E15. -/
theorem test_decode_clrb :
    decode 0x0000000000000002#64 = .command .clrb ∧ decode 0x0000000000000012#64 = .illegal .reservedField := by decide

/-- E4, E16. -/
theorem test_decode_swap :
    decode 0x0000000000000003#64 = .command .swap ∧ decode 0x0000000000000013#64 = .illegal .reservedField := by decide

/-- E6, E7, E17, E18. -/
theorem test_decode_bright :
    decode 0x0000000000000104#64 = .command (.bright 1#8) ∧ decode 0x000000000000FF04#64 = .command (.bright 255#8)
      ∧ decode 0x0000000000000014#64 = .illegal .reservedField
      ∧ decode 0x0000000000000084#64 = .illegal .reservedField := by decide

/-- E12, E13: the first and the last reserved opcode. -/
theorem test_decode_reserved_opcodes :
    decode 0x0000000000000005#64 = .illegal .reservedOpcode ∧ decode 0x000000000000000F#64 = .illegal .reservedOpcode := by
  decide

/-- R64, R66: encodings written out in the spec. -/
theorem test_encode :
    encode (.setpx 64 32 4#3) = 0x0000002000400041#64 ∧ encode (.setpx 5 (-1) 1#3) = 0x0000FFFF00050011#64
      ∧ encode (.bright 128#8) = 0x0000000000008004#64 ∧ encode .swap = 3#64 := by decide

/-- R43: byte 0 carries the least significant bits; seven bytes are no word yet. -/
theorem test_bytes :
    bytesOfWord 0x0000002000400041#64 = [0x41#8, 0#8, 0x40#8, 0#8, 0x20#8, 0#8, 0#8, 0#8]
      ∧ decodeBytes [0x04#8, 0x80#8, 0#8, 0#8, 0#8, 0#8, 0#8, 0#8, 9#8] = some (.command (.bright 128#8), [9#8])
      ∧ decodeBytes [4#8, 0#8, 0#8, 0#8, 0#8, 0#8, 0#8] = none := by decide

/-- A word of the opcode table: bits above its length are 0, and a longer word is none. -/
theorem test_decodeTableWord :
    decodeTableWord 64 0x8004 = some (.bright 128#8) ∧ decodeTableWord 8 0x71 = some (.setpx 0 0 7#3)
      ∧ decodeTableWord 64 0x12 = none ∧ decodeTableWord 72 2 = none := by decide

/-! ## The assembler (R64, R65) -/

/-- Decimal, hexadecimal and a colour name; a comment; blanks. -/
theorem test_assemble_setpx :
    assembleLine "  setpx -1, 0x5, red ; edge".toList = .command (.setpx (-1) 5 1#3) := by decide

/-- Range errors and a raw word that is illegal. -/
theorem test_assemble_ranges :
    assembleLine "bright 256".toList = .error .outOfRange ∧ assembleLine "setpx 32768, 0, 1".toList = .error .outOfRange
      ∧ assembleLine ".word64 0x12".toList = .raw 0x12#64 := by decide

/-- The three pseudo-instructions. -/
theorem test_assemble_pseudo :
    assembleLine "blank".toList = .command (.bright 0#8) ∧ assembleLine "full".toList = .command (.bright 255#8)
      ∧ assembleLine "clrpx 1, 2".toList = .command (.setpx 1 2 0#3) := by decide

/-- A text of three lines, one of them only a comment. -/
theorem test_assemble_text : assemble "swap\n; wait\nnop".toList = [3#64, 0#64] := by decide

/-! ## Configuration and addressing -/

/-- V1 to V9 of part 2.1. -/
theorem test_cfgValid :
    [cfgS, sized 4 6 1 1 1, sized 0 4 1 1 1, sized 4 36 1 1 1, sized 4 32 1 1 255, sized 4 4 1 1 0, sized 32768 4 1 1 1,
      sized 16384 4 3 1 1, sized 1 4 1 1 1].map Config.valid
      = [true, false, false, false, true, false, true, false, true] := by decide

/-- M2, M3, M6, M7 of part 2.2. -/
theorem test_map :
    [mapPos cfgS 191 63, mapPos cfgS 64 32, mapPos cfgS 0 32, mapPos cfgS 127 45]
      = [⟨383, 31⟩, ⟨256, 0⟩, ⟨192, 0⟩, ⟨319, 13⟩] := by decide

/-- M9, M10 of part 2.2: the inverse. -/
theorem test_unmap :
    unmapPos Config.build ⟨15, 7⟩ = ⟨7, 15⟩ ∧ unmapPos Config.build ⟨13, 2⟩ = ⟨5, 10⟩ := by decide

/-- S5 of part 2.6. -/
theorem test_shiftAddr :
    (List.range 8).map (shiftAddr (sized 2 8 2 1 255) 1)
      = [⟨0, 3, 7⟩, ⟨1, 3, 7⟩, ⟨0, 1, 5⟩, ⟨1, 1, 5⟩, ⟨2, 3, 7⟩, ⟨3, 3, 7⟩, ⟨2, 1, 5⟩, ⟨3, 1, 5⟩] := by decide

/-- Part 2.5, the rows of `MAX_DUTY` 100 and 1023. -/
theorem test_duty :
    [0#8, 127#8, 128#8, 254#8, 255#8].map (duty (sized 4 4 1 1 100)) = [0, 49, 50, 99, 100]
      ∧ [1#8, 2#8, 127#8, 254#8].map (duty (sized 4 4 1 1 1023)) = [4, 8, 509, 1018] := by decide

/-! ## Commands, one step each -/

/-- SV1: with `FRONT_SEL = 0` the cell `FB[1][0][256]` takes 4, and only that cell is listed. -/
theorem test_setpx_maps :
    sees (exec (.setpx 64 32 4#3) (State.resetOf cfgS)) (·.mem) = some ⟨[], [⟨0, 256, 4#3⟩]⟩ := by decide

/-- SV2, and `x = LOG_WIDTH`: no cell changes, no fault, `CI` advances. -/
theorem test_setpx_outside :
    [Instr.setpx (-1) 5 1#3, .setpx 5 (-1) 1#3, .setpx 8 0 7#3].map
        (fun i => sees (exec i State.reset) fun t => (t.mem, t.faulted, t.ci))
      = List.replicate 3 (some (Memory.blank, false, 1)) := by decide

/-- SV4: `CLRB` zeroes the back buffer only. -/
theorem test_clrb :
    sees (exec .clrb { State.reset with frontSel := true, mem := ⟨[⟨3, 7, 5#3⟩], [⟨0, 0, 2#3⟩]⟩ }) (·.mem)
      = some ⟨[], [⟨0, 0, 2#3⟩]⟩ := by decide

/-- Part 2.9: `swap` sets the request and not the role. -/
theorem test_swap :
    sees (step (hostWith [3#64])) (fun t => (t.swapPending, t.frontSel, t.readStatus)) = some (true, false, 1#32) := by
  decide

/-- R121's example: `bright 128` in `HOLD` is on the port at once. -/
theorem test_bright :
    sees (exec (.bright 128#8) (engineAt .hold)) (fun t => (t.bright, t.oeDuty)) = some (128#8, 128) := by decide

/-- R123. -/
theorem test_nop : sees (step (hostWith [0#64])) (fun t => (t.ci, t.readStatus, t.mem)) = some (1, 0#32, Memory.blank) := by
  decide

/-! ## Faults, reset, engine -/

/-- Part 2.4, steps 1 and 2. -/
theorem test_illegal_words :
    sees (step (hostWith [5#64])) (fun t => (t.badCmd, t.readStatus, t.ci)) = some (5#64, 8#32, 1)
      ∧ sees (step { hostWith [5#64, 0x12#64] with ci := 1, illCmd := true, badCmd := 5#64 })
          (fun t => (t.badCmd, t.readStatus, t.ci)) = some (5#64, 8#32, 2) := by decide

/-- P5 and vector V2: the halted block. -/
theorem test_cfg_halt :
    (State.resetOf (sized 4 6 1 1 255)).readStatus = 0x000F0004#32
      ∧ nextOf (step { State.resetOf (sized 4 6 1 1 255) with program := [3#64] }) = none := by decide

/-- R156: `rst` in the middle of a row. -/
theorem test_rst :
    sees (step { engineAt .clkLo with mem := ⟨[⟨0, 0, 1#3⟩], []⟩, bright := 9#8, ci := 3, turns := [.rst] })
      (fun t => (t == { State.reset with rst := true })) = some true := by decide

/-- R156: while `rst` is asserted the port is not ready, `STATUS` reads its reset value, and the next step only releases
`rst`, the engine's turn being still to come. -/
theorem test_rst_release :
    ({ hostWith [3#64] with rst := true } : State).cmdReady = false
      ∧ ({ State.reset with rst := true } : State).readStatus = 0#32
      ∧ sees (step { State.reset with rst := true, turns := [.engine] })
          (fun t => (t == { State.reset with turns := [.engine] })) = some true := by decide

/-- R161: the observation point is the first state that meets the conditions: after `bright 128` alone the display is still
blanked in it, and it is not on at a later frame's start yet. -/
theorem test_observationPoint_is_first :
    (observationPoint 20 { State.resetOf (sized 1 4 1 1 255) with program := [0x8004#64] }).map
      (fun t => (t.bright, t.oeEn, t.oeDuty)) = some (128#8, false, 0) := by decide

/-- Part 2.9: a pending swap at `FRAME_SYNC`. -/
theorem test_frameSync :
    sees (step { engineAt .frameSync with swapPending := true }) (fun t => (t.frontSel, t.swapPending, t.readStatus))
      = some (true, false, 0x00020002#32) := by decide

/-- Part 2.8, step 5: `CU = FB[1][1][0] = 2`, `CL = FB[1][3][0] = 7`. -/
theorem test_shiftData :
    sees (step { State.resetOf (sized 1 4 1 1 255) with
        mem := ⟨[], [⟨0, 0, 1#3⟩, ⟨1, 0, 2#3⟩, ⟨2, 0, 4#3⟩, ⟨3, 0, 7#3⟩]⟩, frontSel := true, phase := .shiftData })
      (fun t => (t.colorUp, t.colorLo, t.ports.g1, t.ports.r1)) = some (2#3, 7#3, true, false) := by decide

/-- R105's wrap: sub-row 1 is the last one of configuration A. -/
theorem test_hold :
    sees (step { engineAt .hold with row := 1#3 }) (fun t => (t.row, t.phase)) = some (0#3, .disable) := by decide

/-- The word that the host's interface places is the next one to run, from reset. -/
theorem test_withFetchWord :
    sees (step (State.reset.withFetchWord 64 0x8004)) (fun t => (t.bright, t.ci)) = some (128#8, 1) := by decide

/-! ## Witnesses: states and operands that meet the hypotheses of the obligations -/

/-- The invariant's fields, for a state that can be computed. -/
def runInvHolds (s : State) : Bool :=
  decide (s.phase ≠ .cfgHalt ∧ s.row.toNat < s.cfg.scanRows ∧ s.col < s.cfg.ncols
    ∧ (s.oeEn = true → s.phase = .hold ∨ s.phase = .disable) ∧ (s.phase = .hold → s.oeEn = true)
    ∧ (s.clkR = true ↔ s.phase = .clkLo) ∧ (s.latR = true ↔ s.phase = .latLo)
    ∧ (s.phase = .frameSync → s.row = 0#3) ∧ (s.phase.addressed = true → s.addr = s.row)
    ∧ s.cfg.valid = true ∧ s.cfgFault = false ∧ s.intFault = false ∧ (s.illCmd = true ↔ s.badCmd ≠ 0#64)
    ∧ s.mem.wf = true ∧ s.mem.bounded s.cfg = true ∧ s.ci ≤ s.program.length)

theorem runInv_of_holds {s : State} (h : runInvHolds s = true) : RunInv s := by
  obtain ⟨h1, h2, h3, h4, h5, h6, h7, h8, h9, h10, h11, h12, h13, h14, h15, h16⟩ := of_decide_eq_true h
  exact ⟨⟨h1, h2, h3, h4, h5, h6, h7, h8, h9⟩, h10, h11, h12, h13, h14, h15, h16⟩

theorem machineInv_of_holds {s : State} (h : runInvHolds s = true) (hr : s.rst = false) : MachineInv s := by
  have hi := runInv_of_holds h
  unfold MachineInv
  rw [if_pos hi.cfg_valid]
  exact ⟨fun h => absurd h (by simp [hr]), hi⟩

/-- A next state exists, said so that it can be computed. -/
theorem exists_next {o : Host.Outcome State Fault Refusal} {p : State → Prop} [DecidablePred p]
    (h : (nextOf o).any (fun t => decide (p t)) = true) : ∃ t, o = .next t ∧ p t := by
  cases o with
  | next t => exact ⟨t, rfl, of_decide_eq_true (by simpa [nextOf] using h)⟩
  | fault r => cases h
  | refused r => cases h

/-- `DecodeOfEncode`: a command of each kind, with the extreme operands. -/
theorem test_witness_DecodeOfEncode :
    [Instr.nop, .setpx (-32768) 32767 7#3, .setpx 32767 (-32768) 0#3, .clrb, .swap, .bright 255#8].all
      Instr.wellFormed = true := by decide

/-- `EncodeOfDecode` and `OperandsAreTheFields`: words that decode to commands, the coordinates at both ends. -/
theorem test_witness_EncodeOfDecode :
    decode 0x00007FFF80000071#64 = .command (.setpx (-32768) 32767 7#3)
      ∧ decode 0x000080007FFF0001#64 = .command (.setpx 32767 (-32768) 0#3)
      ∧ decode 0x000000000000FF04#64 = .command (.bright 255#8)
      ∧ decode 0x00000000FFFF0001#64 = .command (.setpx (-1) 0 0#3)
      ∧ (0x00000000FFFF0001#64).toNat / 2 ^ 16 % 2 ^ 16 = 0xFFFF := by decide

/-- `UnmatchedWordsAreIllegal`: both sides of the opcode bound. -/
theorem test_witness_UnmatchedWordsAreIllegal :
    decode 5#64 = .illegal .reservedOpcode ∧ decode 0x14#64 = .illegal .reservedField
      ∧ (∀ i ∈ opcodeRows, inRow i 0x14#64 = false) ∧ inRow .swap 3#64 = true
      ∧ (hostWith [0x14#64]).mover = some .host ∧ (hostWith [0x14#64]).program[(hostWith [0x14#64]).ci]? = some 0x14#64 := by
  decide

/-- `BytesCarryTheWordLittleEndian`: the last byte, and the longest list that is no word. -/
theorem test_witness_BytesCarryTheWord : 7 < 8 ∧ (List.replicate 7 0#8).length < 8 := by decide

/-- `AssembledCommandsDecode`: operands at the ends of their ranges. -/
theorem test_witness_AssembledCommandsDecode :
    assembleLine "setpx -32768, 0x7fff, white".toList = .command (.setpx (-32768) 32767 7#3)
      ∧ assembleLine "bright 255".toList = .command (.bright 255#8) := by decide

/-- `SetpxWritesTheMappedCell`: the last cell of the grid, and a coordinate beyond each bound. -/
theorem test_witness_SetpxWritesTheMappedCell :
    inLogicalGrid Config.build 7 15 = true ∧ inLogicalGrid Config.build 0 0 = true
      ∧ inLogicalGrid Config.build 8 15 = false ∧ inLogicalGrid Config.build 7 16 = false
      ∧ inLogicalGrid Config.build (-1) 0 = false ∧ inLogicalGrid Config.build 0 (-1) = false := by decide

/-- `MapIsRowMajorChain`: the last panel column and the last pixel of a panel. -/
theorem test_witness_MapIsRowMajorChain :
    2 < cfgS.nHor ∧ 63 < cfgS.panelWidth ∧ 31 < cfgS.panelHeight := by decide

/-- `MapIsBijection`: the last cell of each grid. -/
theorem test_witness_MapIsBijection :
    cfgS.valid = true ∧ 191 < cfgS.logWidth ∧ 63 < cfgS.logHeight ∧ inPhysical cfgS ⟨383, 31⟩ = true := by decide

/-- `SwapRequestsTheExchange` and the pending clause of `BlankingAndFrameSyncSteps`. -/
theorem test_witness_SwapRequestsTheExchange :
    ({ engineAt .frameSync with swapPending := true } : State).mover = some .engine
      ∧ (engineAt .frameSync).phase = .frameSync := by decide

/-- The holds of the five commands' statements, and a `BRIGHT` taken in `ENABLE`. -/
theorem test_witness_command_holds :
    (hostWith [2#64]).mover = some .host
      ∧ ∃ t, exec (.bright 9#8) (engineAt .enable) = .next t ∧ t.phase = .enable := ⟨by decide, exists_next (by decide)⟩

/-- `CommandsButSwapAreIdempotent` and `CommandsLeaveTheEngineAlone`: commands that meet each exclusion. -/
theorem test_witness_CommandsButSwap :
    Instr.clrb ≠ .swap ∧ (∀ l, Instr.swap ≠ .bright l) ∧ ((∀ x y c, Instr.nop ≠ .setpx x y c) ∧ Instr.nop ≠ .clrb) := by
  refine ⟨by decide, fun _ => by simp, fun _ _ _ => by simp, by decide⟩

/-- `AcceptedWordsAdvanceTheIndex`: outside reset with a host step, a legal and an illegal word. -/
theorem test_witness_AcceptedWords :
    (hostWith [3#64]).resetDue = false ∧ (hostWith [3#64]).mover = some .host
      ∧ (hostWith [5#64]).mover = some .host := by decide

/-- `StepRunsTheDecodedCommand`: a word of each command. -/
theorem test_witness_StepRunsTheDecodedCommand :
    [(0#64, Instr.nop), (0x71#64, .setpx 0 0 7#3), (2#64, .clrb), (3#64, .swap), (0xFF04#64, .bright 255#8)].all
      (fun p => (hostWith [p.1]).mover == some .host && (hostWith [p.1]).program[(hostWith [p.1]).ci]? == some p.1
        && decode p.1 == .command p.2) = true := by decide

/-- `PlacedWordRunsNext`: a table word of each command. -/
theorem test_witness_PlacedWordRunsNext :
    [0x0, 0x1, 0x2, 0x3, 0x4].map (decodeTableWord 64)
      = [some .nop, some (.setpx 0 0 0#3), some .clrb, some .swap, some (.bright 0#8)] := by decide

/-- `PendingSwapHoldsThePort`: a pending swap of a run, not lifted by `SETTLE` and lifted by `FRAME_SYNC`. -/
theorem test_witness_PendingSwapHoldsThePort :
    (∃ t, step { engineAt .settle with swapPending := true } = .next t ∧ t.swapPending = true)
      ∧ (∃ t, step { engineAt .frameSync with swapPending := true } = .next t ∧ t.swapPending = false)
      ∧ ({ engineAt .frameSync with swapPending := true } : State).resetDue = false
      ∧ RunInv { engineAt .frameSync with swapPending := true } :=
  ⟨exists_next (by decide), exists_next (by decide), by decide, runInv_of_holds (by decide)⟩

/-- `TurnsGiveEveryInterleaving`: each mover. -/
theorem test_witness_TurnsGiveEveryInterleaving :
    (engineAt .settle).mover = some .engine ∧ (hostWith [0#64]).mover = some .host ∧ (hostWith [0#64]).hostEnabled = true
      ∧ (hostWith []).mover = some .engine ∧ (State.resetOf (sized 4 6 1 1 255)).mover = none := by decide

/-- `IllegalWordIsRecorded`: both reasons, before and after a first illegal word. -/
theorem test_witness_IllegalWordIsRecorded :
    decode 5#64 = .illegal .reservedOpcode ∧ decode 0x12#64 = .illegal .reservedField
      ∧ (hostWith [5#64]).mover = some .host ∧ (hostWith [5#64]).program[(hostWith [5#64]).ci]? = some 5#64
      ∧ ({ hostWith [0x12#64] with illCmd := true } : State).mover = some .host := by decide

/-- `FaultBitsAreSticky` and `FirstIllegalWordIsKept`: a step with every fault bit set, and a reset. -/
theorem test_witness_FaultBitsAreSticky :
    (∃ t, step { engineAt .settle with cfgFault := true, illCmd := true, intFault := true } = .next t ∧ t.illCmd = true)
      ∧ ({ engineAt .settle with illCmd := true } : State).resetDue = false
      ∧ (∃ t, step { hostWith [5#64] with illCmd := true, badCmd := 0xF#64 } = .next t ∧ t.badCmd = 0xF#64)
      ∧ ({ engineAt .settle with illCmd := true, turns := [.rst] } : State).resetDue = true
      ∧ (∃ t, step { engineAt .settle with illCmd := true, turns := [.rst] } = .next t ∧ t.illCmd = false)
      ∧ (engineAt .disable).goodEnd = true ∧ (engineAt .disable).cfg.valid = true :=
  ⟨exists_next (by decide), by decide, exists_next (by decide), by decide, exists_next (by decide), by decide⟩

/-- `InternalFaultIsNeverRaised`: a `SETPX` step from a state without the bit. -/
theorem test_witness_InternalFaultIsNeverRaised :
    ∃ t, step (hostWith [0x71#64]) = .next t ∧ t.intFault = false := exists_next (by decide)

/-- `InvalidConfigurationIsStuck`: an invalid configuration, outside and inside reset, with a word waiting. -/
theorem test_witness_InvalidConfigurationIsStuck :
    (sized 4 6 1 1 255).valid = false
      ∧ ({ State.resetOf (sized 4 6 1 1 255) with program := [3#64] } : State).resetDue = false
      ∧ ({ State.resetOf (sized 4 6 1 1 255) with turns := [.rst] } : State).resetDue = true
      ∧ ({ State.resetOf (sized 4 6 1 1 255) with turns := [.host], rst := true } : State).resetDue = false := by decide

/-- `ResetStartsOrHaltsTheEngine`: the smallest valid configuration and an invalid one. -/
theorem test_witness_ResetStartsOrHalts : (sized 1 4 1 1 1).valid = true ∧ (sized 4 4 1 1 0).valid = false := by decide

/-- `ResetInputRestoresEverything`: a reset in the middle of a row, and a state of a run in which `rst` is asserted, with
a word waiting. -/
theorem test_witness_ResetInput :
    ({ engineAt .shiftData with turns := [.rst, .engine] } : State).resetDue = true
      ∧ ({ hostWith [3#64] with rst := true } : State).resetDue = false
      ∧ MachineInv { hostWith [3#64] with rst := true } := by
  refine ⟨by decide, by decide, ?_⟩
  unfold MachineInv
  rw [if_pos (by decide)]
  exact ⟨fun _ => rfl, runInv_of_holds (by decide)⟩

/-- `NoStepChangesTheConfiguration`: a release, and a step that is none. -/
theorem test_witness_release :
    ({ State.reset with rst := true, turns := [.engine] } : State).mover = some .release
      ∧ (engineAt .settle).mover ≠ some .release := by decide

/-- `EveryStepKeepsTheInvariant` and the other statements over every step: a state of a run that has a next one, and one
of a halted block that has a reset. -/
theorem test_witness_EveryStepKeepsTheInvariant :
    MachineInv (hostWith [0x71#64]) ∧ (∃ t, step (hostWith [0x71#64]) = .next t ∧ t.mem.fb1 = [⟨0, 0, 7#3⟩])
      ∧ MachineInv { State.resetOf (sized 4 6 1 1 255) with turns := [.rst] }
      ∧ (∃ t, step { State.resetOf (sized 4 6 1 1 255) with turns := [.rst] } = .next t ∧ t.phase = .cfgHalt) := by
  refine ⟨machineInv_of_holds (by decide) rfl, exists_next (by decide), ?_, exists_next (by decide)⟩
  unfold MachineInv
  rw [if_neg (by decide)]
  decide

/-- `EveryStepKeepsTheFrameStoreCanonical`: a frame store with listed cells, and a step that writes it. -/
theorem test_witness_FrameStoreCanonical :
    ({ hostWith [0x71#64] with mem := ⟨[⟨1, 2, 3#3⟩], [⟨0, 0, 2#3⟩, ⟨0, 5, 1#3⟩]⟩ } : State).mem.wf = true
      ∧ ∃ t, step { hostWith [0x71#64] with mem := ⟨[⟨1, 2, 3#3⟩], [⟨0, 0, 2#3⟩, ⟨0, 5, 1#3⟩]⟩ } = .next t
          ∧ t.mem.fb1 = [⟨0, 0, 7#3⟩, ⟨0, 5, 1#3⟩] := ⟨by decide, exists_next (by decide)⟩

/-- `RolesChangeOnlyAtFrameSync`: a step that changes the role. -/
theorem test_witness_RolesChange :
    ({ engineAt .frameSync with swapPending := true } : State).resetDue = false
      ∧ ∃ t, step { engineAt .frameSync with swapPending := true } = .next t ∧ t.frontSel ≠ (engineAt .frameSync).frontSel :=
  ⟨by decide, exists_next (by decide)⟩

/-- `FrontBufferIsNeverWritten`: a clear and a pixel write outside reset. -/
theorem test_witness_FrontBuffer :
    (hostWith [2#64]).resetDue = false ∧ (∃ t, step (hostWith [2#64]) = .next t ∧ t.ci = 1)
      ∧ ∃ t, step (hostWith [0x71#64]) = .next t ∧ t.ci = 1 :=
  ⟨by decide, exists_next (by decide), exists_next (by decide)⟩

/-- The statements of the engine's steps: in every phase but `CFG_HALT` the engine can be the mover of a state of a run. -/
theorem test_witness_engine_steps :
    [Phase.disable, .frameSync, .settle, .rowsel, .shiftData, .clkHi, .clkLo, .latHi, .latLo, .enable, .hold].all
      (fun p => (engineAt p).phase == p && (engineAt p).mover == some .engine && runInvHolds (engineAt p)) = true := by
  decide

/-- `BlankingAndFrameSyncSteps` and `SettleAndRowSelectSteps`: a step that reaches `FRAME_SYNC`, one in another phase than
`ROWSEL`. -/
theorem test_witness_reach_frameSync :
    (∃ t, step (engineAt .disable) = .next t ∧ t.phase = .frameSync) ∧ (engineAt .disable).phase ≠ .rowsel :=
  ⟨exists_next (by decide), by decide⟩

/-- `ShiftDataStep`: the addresses of its hypotheses at an odd panel group, inside the buffer, and at a column beyond the
frame, outside it. -/
theorem test_witness_ShiftDataStep :
    ({ engineAt .shiftData with col := 31 } : State).mover = some .engine
      ∧ shiftAddr Config.build 0 31 = ⟨15, 0, 4⟩ ∧ inPhysical Config.build ⟨15, 4⟩ = true
      ∧ (shiftAddr Config.build 0 32).fx = 16 ∧ inPhysical Config.build ⟨16, 2⟩ = false := by decide

/-- `ClockSteps`: the last column but one and the last. -/
theorem test_witness_ClockSteps :
    30 + 1 < Config.build.panelWidth * Config.build.nPanels * 2
      ∧ Config.build.panelWidth * Config.build.nPanels * 2 ≤ 31 + 1
      ∧ ({ engineAt .clkLo with col := 31 } : State).mover = some .engine := by decide

/-- `FetchesStayInTheBuffer` and `FrameFetchesEveryCellOnce`: the last sub-row, column and cell. -/
theorem test_witness_Fetches :
    cfgS.valid = true ∧ 7 < cfgS.scanRows ∧ 767 < cfgS.ncols ∧ 31 < cfgS.phyHeight ∧ 383 < cfgS.phyWidth
      ∧ shiftAddr cfgS 7 767 = ⟨383, 7, 23⟩ := by decide

/-- `SubRowShiftsEveryColumn`: the first column step of a sub-row of a run; a column before the last, and the last. -/
theorem test_witness_SubRowShifts :
    RunInv (engineAt .shiftData) ∧ (engineAt .shiftData).col = 0 ∧ 30 + 1 < (engineAt .shiftData).cfg.ncols
      ∧ 31 < (engineAt .shiftData).cfg.ncols ∧ ¬(31 + 1 < (engineAt .shiftData).cfg.ncols) :=
  ⟨runInv_of_holds (by decide), by decide⟩

/-- `SubRowTakesItsSteps`, `FrameTakesItsSteps`, `FrameSyncComesWithinAFrame`, `FrameLastsItsDelays`: a `DISABLE` of sub-row
0 and one of sub-row 1. -/
theorem test_witness_SubRowTakesItsSteps :
    RunInv (engineAt .disable) ∧ RunInv { engineAt .disable with row := 1#3 } ∧ (engineAt .disable).row = 0#3 :=
  ⟨runInv_of_holds (by decide), runInv_of_holds (by decide), rfl⟩

/-- `BlankingWinsOverBrightness`: a `BRIGHT` word in a blanked phase before `ENABLE`, and a `DISABLE` step. -/
theorem test_witness_BlankingWins :
    RunInv { hostWith [0xFF04#64] with phase := .latHi } ∧ Phase.latHi.blanked = true
      ∧ (∃ t, step { hostWith [0xFF04#64] with phase := .latHi } = .next t ∧ t.bright = 255#8)
      ∧ RunInv { engineAt .disable with oeEn := true, bright := 200#8 }
      ∧ (∃ t, step { engineAt .disable with oeEn := true, bright := 200#8 } = .next t ∧ t.phase ≠ .disable) :=
  ⟨runInv_of_holds (by decide), by decide, exists_next (by decide), runInv_of_holds (by decide), exists_next (by decide)⟩

/-- `PortChangesFollowTheOrder`: a step that changes the address, one that changes the colours, the rising edges and the
enabling. -/
theorem test_witness_PortChanges :
    (RunInv { engineAt .rowsel with row := 1#3 }
        ∧ ∃ t, step { engineAt .rowsel with row := 1#3 } = .next t ∧ t.addr ≠ 0#3)
      ∧ (RunInv { engineAt .shiftData with mem := ⟨[⟨2, 0, 7#3⟩], []⟩ }
        ∧ ∃ t, step { engineAt .shiftData with mem := ⟨[⟨2, 0, 7#3⟩], []⟩ } = .next t ∧ t.colorUp ≠ 0#3)
      ∧ (∃ t, step (engineAt .clkHi) = .next t ∧ t.clkR = true) ∧ (∃ t, step (engineAt .latHi) = .next t ∧ t.latR = true)
      ∧ (∃ t, step (engineAt .enable) = .next t ∧ t.oeEn = true) ∧ (engineAt .enable).oeEn = false :=
  ⟨⟨runInv_of_holds (by decide), exists_next (by decide)⟩, ⟨runInv_of_holds (by decide), exists_next (by decide)⟩,
    exists_next (by decide), exists_next (by decide), exists_next (by decide), by decide⟩

/-- `EngineAndHostStepsCommute`: a `SWAP` word in another phase, and another word in `FRAME_SYNC`. -/
theorem test_witness_Commute :
    (hostWith [3#64]).hostEnabled = true ∧ (hostWith [3#64]).phase ≠ .frameSync
      ∧ (∃ t, hostStep (hostWith [3#64]) = .next t ∧ t.swapPending = true)
      ∧ ({ hostWith [2#64] with phase := .frameSync } : State).hostEnabled = true
      ∧ ({ hostWith [2#64] with phase := .frameSync } : State).offeredWord ≠ some 3#64
      ∧ (∃ t, hostStep { hostWith [2#64] with phase := .frameSync } = .next t ∧ t.ci = 1) :=
  ⟨by decide, by decide, exists_next (by decide), by decide, by decide, exists_next (by decide)⟩

/-- `BackBufferIsInvisibleUntilTheSwap`: two states that differ in a cell of the back buffer, and a step that keeps the
roles. -/
theorem test_witness_BackBuffer :
    SameButBack (engineAt .shiftData) { engineAt .shiftData with mem := ⟨[], [⟨2, 0, 7#3⟩]⟩ }
      ∧ ∃ t, step (engineAt .shiftData) = .next t ∧ t.frontSel = (engineAt .shiftData).frontSel :=
  ⟨⟨by decide, by decide⟩, exists_next (by decide)⟩

/-- `ObservationPointIsReached`: a state of a run with a program that swaps, and turns left. -/
theorem test_witness_ObservationPoint :
    RunInv { hostWith [0x71#64, 3#64, 0x8004#64] with turns := [.engine, .host] } ∧ (sized 4 6 1 1 255).valid = false :=
  ⟨runInv_of_holds (by decide), by decide⟩

/-- `AssemblerReadsEachMnemonic`: operands that are plain text, and operands at the ends of their ranges. -/
theorem test_witness_Assembler :
    (∀ t ∈ ["setpx".toList, "-1".toList, "red".toList], t ≠ [] ∧ ∀ ch ∈ t, ch ≠ ',' ∧ ch ≠ ';' ∧ isBlank ch = false)
      ∧ parseInt "-32768".toList = some (-32768) ∧ parseInt "0x7fff".toList = some 32767
      ∧ parseInt "255".toList = some 255 ∧ colorNames.lookup "red".toList = some 1#3
      ∧ colorNames.lookup "7".toList = none ∧ parseInt "7".toList = some 7 :=
  ⟨by simp [isBlank], by decide, by decide, by decide, by decide, by decide, by decide⟩

/-- `DutyIsMonotone`: levels in order, and the ranges on both sides of the bound for injectivity. -/
theorem test_witness_DutyIsMonotone :
    (127#8).toNat ≤ (128#8).toNat ∧ duty (sized 4 4 1 1 254) 254#8 = 253 ∧ duty (sized 4 4 1 1 254) 255#8 = 254
      ∧ duty (sized 4 4 1 1 254) 0#8 = duty (sized 4 4 1 1 254) 1#8 ∧ Config.build.maxDuty = 255 := by decide

end Sys2Proof.Tests
end

section
/-! Fields of a word (R30): reading one field of a word built field by field, and the word's number as the sum of its
fields. -/

namespace Sys2Proof

/-- Reading a field at its own place gives the field. -/
theorem extractLsb'_fieldAt_same {n w lo : Nat} (v : BitVec n) (h : lo + n ≤ w) :
    (fieldAt w lo v).extractLsb' lo n = v := by
  apply word_ext
  intro k hk
  have hw : lo + k < w := by omega
  simp [hk, hw]

/-- A field leaves 0 at every place beside its own. -/
theorem extractLsb'_fieldAt_disjoint {n w lo lo' m : Nat} (v : BitVec n) (h : lo' + m ≤ lo ∨ lo + n ≤ lo') :
    (fieldAt w lo v).extractLsb' lo' m = 0#m := by
  apply word_ext
  intro k hk
  have hout : ¬(lo ≤ lo' + k ∧ lo' + k < lo + n) := by omega
  simp only [BitVec.getLsbD_extractLsb', getLsbD_fieldAt, decide_eq_false hout, Bool.false_and, Bool.and_false,
    BitVec.getLsbD_zero]

/-- The number of a word that is one field. -/
theorem toNat_fieldAt {n w lo : Nat} (v : BitVec n) (h : lo + n ≤ w) : (fieldAt w lo v).toNat = v.toNat * 2 ^ lo := by
  have hv : v.toNat * 2 ^ lo < 2 ^ w :=
    calc v.toNat * 2 ^ lo < 2 ^ n * 2 ^ lo := Nat.mul_lt_mul_of_pos_right v.isLt (Nat.two_pow_pos lo)
      _ = 2 ^ (lo + n) := by rw [Nat.pow_add, Nat.mul_comm]
      _ ≤ 2 ^ w := Nat.pow_le_pow_right (by decide) h
  rw [fieldAt, BitVec.toNat_shiftLeft, BitVec.toNat_setWidth_of_le (by omega), Nat.shiftLeft_eq, Nat.mod_eq_of_lt hv]

/-- A field placed above every bit of a word adds its number at its place. -/
theorem toNat_or_fieldAt {n w lo x : Nat} {a : BitVec w} (v : BitVec n) (ha : a.toNat = x) (hx : x < 2 ^ lo)
    (h : lo + n ≤ w) : (a ||| fieldAt w lo v).toNat = x + v.toNat * 2 ^ lo := by
  subst ha
  rw [BitVec.toNat_or, toNat_fieldAt v h, ← Nat.shiftLeft_eq, Nat.lor_comm, ← Nat.shiftLeft_add_eq_or_of_lt hx,
    Nat.add_comm]

/-- Three bits, the highest first, are the word they come from. -/
theorem ofBool_append_bits (v : BitVec 3) :
    BitVec.ofBool (v.getLsbD 2) ++ BitVec.ofBool (v.getLsbD 1) ++ BitVec.ofBool (v.getLsbD 0) = v := by
  decide +revert

end Sys2Proof
end

section
/-! The status register as a number (R30). -/

namespace Sys2Proof.Machine

/-- `STATUS` as a number: the fields at bits 0 to 4, 8, 16 and 20, none of which overlap. -/
theorem State.readStatus_toNat (s : State) :
    s.readStatus.toNat = s.swapPending.toNat + s.frontSel.toNat * 2 ^ 1 + s.cfgFault.toNat * 2 ^ 2
      + s.illCmd.toNat * 2 ^ 3 + s.intFault.toNat * 2 ^ 4 + s.bright.toNat * 2 ^ 8 + s.phase.code.toNat * 2 ^ 16
      + s.row.toNat * 2 ^ 20 := by
  have hswap := (BitVec.ofBool s.swapPending).isLt
  have hfront := (BitVec.ofBool s.frontSel).isLt
  have hcfg := (BitVec.ofBool s.cfgFault).isLt
  have hill := (BitVec.ofBool s.illCmd).isLt
  have hint := (BitVec.ofBool s.intFault).isLt
  have hbright := s.bright.isLt
  have hcode := s.phase.code.isLt
  have h0 := toNat_fieldAt (w := 32) (lo := 0) (BitVec.ofBool s.swapPending) (by decide)
  have h1 := toNat_or_fieldAt (lo := 1) (BitVec.ofBool s.frontSel) h0 (by omega) (by decide)
  have h2 := toNat_or_fieldAt (lo := 2) (BitVec.ofBool s.cfgFault) h1 (by omega) (by decide)
  have h3 := toNat_or_fieldAt (lo := 3) (BitVec.ofBool s.illCmd) h2 (by omega) (by decide)
  have h4 := toNat_or_fieldAt (lo := 4) (BitVec.ofBool s.intFault) h3 (by omega) (by decide)
  have h8 := toNat_or_fieldAt (lo := 8) s.bright h4 (by omega) (by decide)
  have h16 := toNat_or_fieldAt (lo := 16) s.phase.code h8 (by omega) (by decide)
  have h20 := toNat_or_fieldAt (lo := 20) s.row h16 (by omega) (by decide)
  simpa only [State.readStatus, BitVec.toNat_ofBool, Nat.pow_zero, Nat.mul_one] using h20

/-- The one-bit fields of `STATUS` (R30). -/
theorem State.readStatus_flags (s : State) :
    s.readStatus.getLsbD 0 = s.swapPending ∧ s.readStatus.getLsbD 1 = s.frontSel ∧ s.readStatus.getLsbD 2 = s.cfgFault
      ∧ s.readStatus.getLsbD 3 = s.illCmd ∧ s.readStatus.getLsbD 4 = s.intFault := by
  simp [State.readStatus]

theorem State.readStatus_bright (s : State) : s.readStatus.extractLsb' 8 8 = s.bright := by
  simp [State.readStatus, BitVec.extractLsb'_or, extractLsb'_fieldAt_same, extractLsb'_fieldAt_disjoint]

theorem State.readStatus_phase (s : State) : s.readStatus.extractLsb' 16 4 = s.phase.code := by
  simp [State.readStatus, BitVec.extractLsb'_or, extractLsb'_fieldAt_same, extractLsb'_fieldAt_disjoint]

theorem State.readStatus_row (s : State) : s.readStatus.extractLsb' 20 3 = s.row := by
  simp [State.readStatus, BitVec.extractLsb'_or, extractLsb'_fieldAt_same, extractLsb'_fieldAt_disjoint]

/-- Bits 7:5 and 31:23 are in no field (R30). -/
theorem State.readStatus_reserved (s : State) :
    s.readStatus.extractLsb' 5 3 = 0#3 ∧ s.readStatus.extractLsb' 23 9 = 0#9 := by
  simp [State.readStatus, BitVec.extractLsb'_or, extractLsb'_fieldAt_disjoint]

/-- `STATUS` after reset: `BRIGHT_RESET`, and the halted engine's phase and fault under an invalid configuration (R30). -/
theorem State.readStatus_resetOf_toNat (c : Config) :
    (State.resetOf c).readStatus.toNat = (if c.valid then 0 else 0x000F0004) + c.brightReset.toNat * 2 ^ 8 := by
  rw [State.readStatus_toNat]
  cases hv : c.valid with
  | true => simp [State.resetOf, hv, Phase.code]
  | false => simp +arith [State.resetOf, hv, Phase.code]

/-- Settles O58: the phase codes, the number that the reset state reads, and each field read back at its place. -/
theorem statusFields : Obligations.StatusFields := by
  unfold Obligations.StatusFields
  refine ⟨rfl, State.readStatus_resetOf_toNat, fun s => ?_⟩
  obtain ⟨hswap, hfront, hcfg, hill, hint⟩ := s.readStatus_flags
  obtain ⟨hlow, hhigh⟩ := s.readStatus_reserved
  exact ⟨hswap, hfront, hcfg, hill, hint, hlow, s.readStatus_bright, s.readStatus_phase, s.readStatus_row, hhigh⟩

end Sys2Proof.Machine
end

section
/-! The acceptance of a host word (R29): a command always completes, and a legal and an illegal word both advance `CI`. -/

namespace Sys2Proof.Machine

/-- Every command completes, in every state. -/
theorem exec_total (i : Instr) (s : State) : ∃ t, exec i s = .next t := by
  cases i with
  | nop => exact ⟨_, rfl⟩
  | setpx x y c =>
    cases hg : inLogicalGrid s.cfg x y with
    | true => exact ⟨_, execSetpx_inside c hg⟩
    | false => exact ⟨_, execSetpx_outside c hg⟩
  | clrb => exact ⟨_, rfl⟩
  | swap => exact ⟨_, rfl⟩
  | bright l => exact ⟨_, rfl⟩

/-- A command advances `CI` by 1 and keeps the host program. -/
theorem exec_ci_program {i : Instr} {s t : State} (h : exec i s = .next t) :
    t.ci = s.ci + 1 ∧ t.program = s.program := by
  rcases exec_cases h with ⟨rfl, _⟩ | ⟨x, y, c, _, _, rfl⟩ | ⟨_, rfl⟩ | ⟨_, rfl⟩ | ⟨l, _, rfl⟩ <;> exact ⟨rfl, rfl⟩

/-- An illegal word sets `ILL_CMD`, advances `CI` by 1 and keeps the host program. -/
theorem acceptIllegal_fields (w : Word64) (s : State) :
    (acceptIllegal w s).illCmd = true ∧ (acceptIllegal w s).ci = s.ci + 1
      ∧ (acceptIllegal w s).program = s.program := ⟨rfl, rfl, rfl⟩

theorem acceptWord_of_command {w : Word64} {i : Instr} (s : State) (h : decode w = .command i) :
    acceptWord w s = exec i s := by simp [acceptWord, h]

theorem acceptWord_of_illegal {w : Word64} {r : IllegalReason} (s : State) (h : decode w = .illegal r) :
    acceptWord w s = .next (acceptIllegal w s) := by simp [acceptWord, h]

/-- The host offers a word as long as `CI` has not passed the end of its program. -/
theorem State.cmdValid_iff (s : State) : s.cmdValid = true ↔ s.ci < s.program.length := by
  simp [State.cmdValid, State.offeredWord]

/-- When the host moves it offers a word, and the step is the acceptance of that word. -/
theorem step_of_host_acceptWord {s : State} (h : s.mover = some .host) :
    ∃ w, s.offeredWord = some w ∧ step s = acceptWord w s.popTurn := by
  obtain ⟨hm, _⟩ | ⟨hm, _⟩ | ⟨hm, _⟩ | ⟨_, henabled, _⟩ := State.mover_cases h
  · cases hm
  · cases hm
  · cases hm
  · obtain ⟨⟨w, hw⟩, _⟩ := s.hostEnabled_iff.mp henabled
    refine ⟨w, hw, ?_⟩
    rw [step_of_host h, hostStep, State.offeredWord_popTurn, hw]

/-- Settles O18: the port's two signals by their definitions, and the host step by what the offered word decodes to. -/
theorem acceptedWordsAdvanceTheIndex : Obligations.AcceptedWordsAdvanceTheIndex := by
  unfold Obligations.AcceptedWordsAdvanceTheIndex
  refine fun s => ⟨s.cmdReady_iff, s.cmdValid_iff, by rw [State.hostEnabled, Bool.and_eq_true], fun hm => ?_⟩
  obtain ⟨w, hw, hstep⟩ := step_of_host_acceptWord hm
  cases hd : decode w with
  | command i =>
    obtain ⟨t, ht⟩ := exec_total i s.popTurn
    obtain ⟨hci, hprogram⟩ := exec_ci_program ht
    refine ⟨w, t, hw, ?_, hci, hprogram, fun j hj => ?_, fun r hr => ?_⟩
    · rw [hstep, acceptWord_of_command _ hd, ht]
    · cases hd.symm.trans hj
      exact ht
    · cases hd.symm.trans hr
  | illegal r =>
    obtain ⟨hill, hci, hprogram⟩ := acceptIllegal_fields w s.popTurn
    refine ⟨w, acceptIllegal w s.popTurn, hw, ?_, hci, hprogram, fun j hj => ?_, fun _ _ => hill⟩
    · rw [hstep, acceptWord_of_illegal _ hd]
    · cases hd.symm.trans hj

end Sys2Proof.Machine
end

section
/-! The values after reset (R33) and the port lines (R27). -/

namespace Sys2Proof.Machine

@[simp] theorem Memory.read_blank (b : Bool) (y x : Nat) : Memory.blank.read b y x = 0#3 := by cases b <;> rfl

/-- Reset sets `CFG_FAULT` exactly under an invalid configuration. -/
theorem State.resetOf_cfgFault_iff (c : Config) : (State.resetOf c).cfgFault = true ↔ c.valid = false := by
  simp [State.resetOf]

/-- Settles O28: every register has the value that `State.resetOf` writes, and every cell of both buffers reads 0. -/
theorem resetValues : Obligations.ResetValues := fun c =>
  ⟨Memory.read_blank, rfl, rfl, rfl, State.resetOf_cfgFault_iff c, rfl, rfl, rfl, rfl, rfl, rfl, rfl, rfl, rfl, rfl,
    rfl, rfl, rfl⟩

/-- Settles O59: each line is one bit of its register, and a three-bit register is its bits. -/
theorem portLinesAreRegisterBits : Obligations.PortLinesAreRegisterBits := fun s =>
  ⟨(ofBool_append_bits s.colorUp).symm, (ofBool_append_bits s.colorLo).symm, (ofBool_append_bits s.addr).symm,
    rfl, rfl, rfl⟩

end Sys2Proof.Machine
end

section
/-! The fields of a word as numbers (R56, R60). -/

namespace Sys2Proof

/-- The number of a field. -/
theorem extractLsb'_toNat_div {w : Nat} (a : BitVec w) (lo n : Nat) :
    (a.extractLsb' lo n).toNat = a.toNat / 2 ^ lo % 2 ^ n := by
  rw [BitVec.extractLsb'_toNat, Nat.shiftRight_eq_div_pow]

/-- A 16-bit field read as a signed number. -/
theorem extractLsb'_toInt_div {w : Nat} (a : BitVec w) (lo : Nat) :
    (a.extractLsb' lo 16).toInt =
      if a.toNat / 2 ^ lo % 2 ^ 16 < 2 ^ 15 then (a.toNat / 2 ^ lo % 2 ^ 16 : Int)
      else (a.toNat / 2 ^ lo % 2 ^ 16 : Int) - 2 ^ 16 := by
  have hcast : (a.toNat / 2 ^ lo % 2 ^ 16 : Int) = ((a.toNat / 2 ^ lo % 2 ^ 16 : Nat) : Int) := by push_cast; rfl
  rw [BitVec.toInt_eq_toNat_cond, extractLsb'_toNat_div, hcast]
  exact if_congr (by omega) rfl rfl

theorem opField_toNat (w : Word64) : (opField w).toNat = w.toNat % 16 := by
  rw [opField, BitVec.extractLsb'_toNat, Nat.shiftRight_zero]

end Sys2Proof
end

section
/-! The match and mask table (R61): masking a word keeps the fields under the mask, so a word is in a command's row exactly
when its `OP` is the command's and its reserved fields are zero. -/

namespace Sys2Proof

theorem fieldAt_inj {n w lo : Nat} {u v : BitVec n} (h : lo + n ≤ w) : fieldAt w lo u = fieldAt w lo v ↔ u = v := by
  refine ⟨fun he => ?_, congrArg _⟩
  rw [← extractLsb'_fieldAt_same u h, he, extractLsb'_fieldAt_same v h]

/-- Masking with the ones of one field leaves that field alone. -/
theorem and_fieldAt_allOnes {w : Nat} (a : BitVec w) (lo n : Nat) :
    a &&& fieldAt w lo (BitVec.allOnes n) = fieldAt w lo (a.extractLsb' lo n) := by
  apply word_ext
  intro k hk
  by_cases hin : lo ≤ k ∧ k < lo + n
  · have hn : k - lo < n := by omega
    simp [hk, hin, hn]
  · simp [hin]

theorem and_fieldAt_allOnes_eq_zero_iff {w lo n : Nat} (a : BitVec w) (h : lo + n ≤ w) :
    a &&& fieldAt w lo (BitVec.allOnes n) = 0#w ↔ a.extractLsb' lo n = 0#n := by
  have hzero : fieldAt w lo 0#n = 0#w := by simp [fieldAt]
  rw [and_fieldAt_allOnes, ← hzero, fieldAt_inj h]

theorem or_and_absorb {w : Nat} (a b : BitVec w) : (a ||| b) &&& b = b := by
  apply word_ext
  intro k _
  cases hb : b.getLsbD k <;> simp [hb]

/-- A mask with one more field, where the match value is zero in it, asks in addition that the field is zero. -/
theorem and_or_fieldAt_eq_iff {w lo n : Nat} (a mask value : BitVec w) (h : lo + n ≤ w)
    (hvalue : value.extractLsb' lo n = 0#n) :
    a &&& (mask ||| fieldAt w lo (BitVec.allOnes n)) = value ↔ a &&& mask = value ∧ a.extractLsb' lo n = 0#n := by
  rw [← and_fieldAt_allOnes_eq_zero_iff a h]
  rw [← and_fieldAt_allOnes_eq_zero_iff value h] at hvalue
  constructor
  · intro he
    have hfield : a &&& fieldAt w lo (BitVec.allOnes n) = 0#w := by
      rw [← hvalue, ← he, BitVec.and_assoc, or_and_absorb]
    rw [BitVec.and_or_distrib_left, hfield, BitVec.or_zero] at he
    exact ⟨he, hfield⟩
  · rintro ⟨hmask, hfield⟩
    rw [BitVec.and_or_distrib_left, hmask, hfield, BitVec.or_zero]

/-- The mask of the `OP` field alone selects the words with that `OP`. -/
theorem and_opMask_eq_iff (w : Word64) (op : BitVec 4) :
    w &&& fieldAt 64 0 (BitVec.allOnes 4) = formatZ op ↔ opField w = op := by
  rw [and_fieldAt_allOnes, formatZ, fieldAt_inj (by decide), opField]

/-- `OP` is the only field of a format Z word that is not zero. -/
theorem extractLsb'_formatZ {lo : Nat} (op : BitVec 4) (n : Nat) (h : 4 ≤ lo) :
    (formatZ op).extractLsb' lo n = 0#n := extractLsb'_fieldAt_disjoint op (.inr h)

theorem and_zMask_eq_iff (w : Word64) (op : BitVec 4) :
    w &&& 0xFFFFFFFFFFFFFFFF#64 = formatZ op ↔ opField w = op ∧ zReservedZero w = true := by
  have hmask : 0xFFFFFFFFFFFFFFFF#64 = fieldAt 64 0 (BitVec.allOnes 4) ||| fieldAt 64 4 (BitVec.allOnes 60) := by decide
  rw [hmask, and_or_fieldAt_eq_iff _ _ _ (by decide) (extractLsb'_formatZ op 60 (by decide)), and_opMask_eq_iff,
    zReservedZero, beq_iff_eq]

theorem and_pMask_eq_iff (w : Word64) (op : BitVec 4) :
    w &&& 0xFFFF00000000FF8F#64 = formatZ op ↔ opField w = op ∧ pReservedZero w = true := by
  have hmask : 0xFFFF00000000FF8F#64 =
      fieldAt 64 0 (BitVec.allOnes 4) ||| fieldAt 64 48 (BitVec.allOnes 16) ||| fieldAt 64 7 (BitVec.allOnes 9) := by
    decide
  rw [hmask, and_or_fieldAt_eq_iff _ _ _ (by decide) (extractLsb'_formatZ op 9 (by decide)),
    and_or_fieldAt_eq_iff _ _ _ (by decide) (extractLsb'_formatZ op 16 (by decide)), and_opMask_eq_iff, pReservedZero,
    Bool.and_eq_true, beq_iff_eq, beq_iff_eq, and_assoc]

theorem and_lMask_eq_iff (w : Word64) (op : BitVec 4) :
    w &&& 0xFFFFFFFFFFFF00FF#64 = formatZ op ↔ opField w = op ∧ lReservedZero w = true := by
  have hmask : 0xFFFFFFFFFFFF00FF#64 =
      fieldAt 64 0 (BitVec.allOnes 4) ||| fieldAt 64 16 (BitVec.allOnes 48) ||| fieldAt 64 4 (BitVec.allOnes 4) := by
    decide
  rw [hmask, and_or_fieldAt_eq_iff _ _ _ (by decide) (extractLsb'_formatZ op 4 (by decide)),
    and_or_fieldAt_eq_iff _ _ _ (by decide) (extractLsb'_formatZ op 48 (by decide)), and_opMask_eq_iff, lReservedZero,
    Bool.and_eq_true, beq_iff_eq, beq_iff_eq, and_assoc]

/-- The reserved fields of the command's format are zero in the word (R57 to R59). -/
def Instr.reservedZero : Instr → Word64 → Bool
  | .nop => zReservedZero
  | .setpx _ _ _ => pReservedZero
  | .clrb => zReservedZero
  | .swap => zReservedZero
  | .bright _ => lReservedZero

theorem inRow_iff_masked (i : Instr) (w : Word64) : inRow i w = true ↔ w &&& i.mask = i.matchBits := beq_iff_eq

/-- The match value of a row is the word with the row's `OP` and nothing else. -/
theorem Instr.matchBits_eq_formatZ (i : Instr) : i.matchBits = formatZ i.opcode := by
  cases i with
  | nop => decide
  | setpx x y c => exact (by decide : 1#64 = formatZ 1#4)
  | clrb => decide
  | swap => decide
  | bright l => exact (by decide : 4#64 = formatZ 4#4)

theorem inRow_iff_fields (i : Instr) (w : Word64) :
    inRow i w = true ↔ opField w = i.opcode ∧ i.reservedZero w = true := by
  rw [inRow_iff_masked, Instr.matchBits_eq_formatZ]
  cases i with
  | nop => exact and_zMask_eq_iff w _
  | setpx x y c => exact and_pMask_eq_iff w _
  | clrb => exact and_zMask_eq_iff w _
  | swap => exact and_zMask_eq_iff w _
  | bright l => exact and_lMask_eq_iff w _

/-- A row of the table depends on the constructor alone, so every command has its row among the five. -/
theorem Instr.exists_mem_opcodeRows (i : Instr) : ∃ j ∈ opcodeRows, ∀ w, inRow j w = inRow i w := by
  cases i with
  | nop => exact ⟨.nop, by decide, fun _ => rfl⟩
  | setpx x y c => exact ⟨.setpx 0 0 0#3, by decide, fun _ => rfl⟩
  | clrb => exact ⟨.clrb, by decide, fun _ => rfl⟩
  | swap => exact ⟨.swap, by decide, fun _ => rfl⟩
  | bright l => exact ⟨.bright 0#8, by decide, fun _ => rfl⟩

/-- The five rows have five different values of `OP`. -/
theorem eq_of_mem_opcodeRows_of_opcode_eq : ∀ i ∈ opcodeRows, ∀ j ∈ opcodeRows, i.opcode = j.opcode → i = j := by decide

/-- No word is in two rows (R61). -/
theorem eq_of_inRow {i j : Instr} {w : Word64} (hi : i ∈ opcodeRows) (hj : j ∈ opcodeRows) (hiw : inRow i w = true)
    (hjw : inRow j w = true) : i = j := by
  obtain ⟨hiop, _⟩ := (inRow_iff_fields i w).mp hiw
  obtain ⟨hjop, _⟩ := (inRow_iff_fields j w).mp hjw
  exact eq_of_mem_opcodeRows_of_opcode_eq i hi j hj (hiop.symm.trans hjop)

end Sys2Proof
end

section
/-! What a word decodes to, by the row it is in (R61 to R63). -/

namespace Sys2Proof

/-- The command of the same constructor whose operands are the fields of the word (R60). -/
def Instr.withFields (w : Word64) : Instr → Instr
  | .nop => .nop
  | .setpx _ _ _ => .setpx (xField w).toInt (yField w).toInt (colorField w)
  | .clrb => .clrb
  | .swap => .swap
  | .bright _ => .bright (levelField w)

theorem Instr.opcode_lt (i : Instr) : i.opcode.toNat < 5 := by
  cases i with
  | nop => decide
  | setpx x y c => exact (by decide : (1#4).toNat < 5)
  | clrb => decide
  | swap => decide
  | bright l => exact (by decide : (4#4).toNat < 5)

theorem commandIf_eq_command {b : Bool} {i j : Instr} (h : commandIf b i = .command j) : b = true ∧ i = j := by
  cases b with
  | true => exact ⟨rfl, Decoded.command.inj h⟩
  | false => cases h

theorem commandIf_ne_reservedOpcode (b : Bool) (i : Instr) : commandIf b i ≠ .illegal .reservedOpcode := by
  cases b <;> nofun

/-- Everything that `decode` can answer: the command that the word's `OP` names, with the word's fields as operands, when
the reserved fields are zero; or the reserved `OP`. -/
theorem decode_cases (w : Word64) :
    (∃ i : Instr, opField w = i.opcode ∧ i.withFields w = i ∧ decode w = commandIf (i.reservedZero w) i)
      ∨ (5 ≤ (opField w).toNat ∧ decode w = .illegal .reservedOpcode) := by
  unfold decode
  split
  · next h => exact .inl ⟨.nop, h, rfl, rfl⟩
  split
  · next h => exact .inl ⟨.setpx _ _ _, h, rfl, rfl⟩
  split
  · next h => exact .inl ⟨.clrb, h, rfl, rfl⟩
  split
  · next h => exact .inl ⟨.swap, h, rfl, rfl⟩
  split
  · next h => exact .inl ⟨.bright _, h, rfl, rfl⟩
  · exact .inr ⟨by bv_omega, rfl⟩

theorem decode_of_inRow {i : Instr} {w : Word64} (h : inRow i w = true) : decode w = .command (i.withFields w) := by
  obtain ⟨hop, hzero⟩ := (inRow_iff_fields i w).mp h
  cases i <;> simp only [Instr.opcode, Instr.reservedZero] at hop hzero <;>
    simp [decode, commandIf, hop, hzero, Instr.withFields]

/-- A word that decodes to a command is in the command's row, and the operands are its fields. -/
theorem inRow_of_decode {i : Instr} {w : Word64} (h : decode w = .command i) :
    inRow i w = true ∧ i.withFields w = i := by
  obtain ⟨j, hop, hfields, hd⟩ | ⟨_, hd⟩ := decode_cases w
  · obtain ⟨hzero, rfl⟩ := commandIf_eq_command (hd.symm.trans h)
    exact ⟨(inRow_iff_fields j w).mpr ⟨hop, hzero⟩, hfields⟩
  · cases hd.symm.trans h

/-- A command whose operands are the word's fields, as one without operands always is, is decoded from the words of its
row. -/
theorem decode_eq_command_iff {i : Instr} {w : Word64} (hfields : i.withFields w = i) :
    decode w = .command i ↔ inRow i w = true :=
  ⟨fun h => (inRow_of_decode h).1, fun h => hfields ▸ decode_of_inRow h⟩

theorem exists_decode_setpx_iff (w : Word64) :
    (∃ x y c, decode w = .command (.setpx x y c)) ↔ inRow (.setpx 0 0 0#3) w = true :=
  ⟨fun ⟨_, _, _, h⟩ => (inRow_of_decode h).1, fun h => ⟨_, _, _, decode_of_inRow h⟩⟩

theorem exists_decode_bright_iff (w : Word64) :
    (∃ l, decode w = .command (.bright l)) ↔ inRow (.bright 0#8) w = true :=
  ⟨fun ⟨_, h⟩ => (inRow_of_decode h).1, fun h => ⟨_, decode_of_inRow h⟩⟩

theorem decode_eq_reservedOpcode_iff (w : Word64) : decode w = .illegal .reservedOpcode ↔ 5 ≤ w.toNat % 16 := by
  rw [← opField_toNat]
  obtain ⟨i, hop, _, hd⟩ | ⟨hop, hd⟩ := decode_cases w
  · have hlt : (opField w).toNat < 5 := hop ▸ i.opcode_lt
    exact ⟨fun h => absurd (hd.symm.trans h) (commandIf_ne_reservedOpcode _ _), fun h => absurd hlt (Nat.not_lt.mpr h)⟩
  · exact ⟨fun _ => hop, fun _ => hd⟩

/-- Settles O4: a row without operands gives its one command, a row with operands gives the command of the word's fields. -/
theorem decodeAgreesWithMaskTable : Obligations.DecodeAgreesWithMaskTable := by
  unfold Obligations.DecodeAgreesWithMaskTable
  intro w
  exact ⟨(decode_eq_command_iff rfl).trans (inRow_iff_masked .nop w),
    (exists_decode_setpx_iff w).trans (inRow_iff_masked (.setpx 0 0 0#3) w),
    (decode_eq_command_iff rfl).trans (inRow_iff_masked .clrb w),
    (decode_eq_command_iff rfl).trans (inRow_iff_masked .swap w),
    (exists_decode_bright_iff w).trans (inRow_iff_masked (.bright 0#8) w),
    fun i hi j hj hiw hjw => eq_of_inRow hi hj hiw hjw, decode_eq_reservedOpcode_iff w⟩

end Sys2Proof
end

section
/-! Illegal words (R62): the words in no row, and what accepting one does (R139). -/

namespace Sys2Proof.Machine

/-- R62: the illegal words are those in no row of the table. -/
theorem exists_decode_illegal_iff (w : Word64) :
    (∃ r, decode w = .illegal r) ↔ ∀ i ∈ opcodeRows, inRow i w = false := by
  constructor
  · rintro ⟨r, hr⟩ i _
    refine Bool.eq_false_of_not_eq_true fun hi => ?_
    cases hr.symm.trans (decode_of_inRow hi)
  · intro hnone
    cases hd : decode w with
    | command i =>
      obtain ⟨j, hj, hrow⟩ := i.exists_mem_opcodeRows
      have hji : inRow j w = true := (hrow w).trans (inRow_of_decode hd).1
      cases hji.symm.trans (hnone j hj)
    | illegal r => exact ⟨r, rfl⟩

/-- Accepting an illegal word writes `ILL_CMD`, `BAD_CMD` and `CI` only. -/
theorem acceptIllegal_frame (w : Word64) (s : State) :
    acceptIllegal w s = { s with illCmd := true, badCmd := (acceptIllegal w s).badCmd, ci := s.ci + 1 } := rfl

/-- Settles O5: such a word decodes to an illegal one, so the host step is its acceptance. -/
theorem unmatchedWordsAreIllegal : Obligations.UnmatchedWordsAreIllegal := by
  unfold Obligations.UnmatchedWordsAreIllegal
  refine fun w => ⟨exists_decode_illegal_iff w, fun h => ⟨_, (decode_eq_reservedOpcode_iff w).mpr h⟩,
    fun s hmover hoffered hnone => ?_⟩
  obtain ⟨r, hr⟩ := (exists_decode_illegal_iff w).mpr hnone
  obtain ⟨v, hv, hstep⟩ := step_of_host_acceptWord hmover
  obtain rfl : v = w := Option.some.inj (hv.symm.trans hoffered)
  exact ⟨_, hstep.trans (acceptWord_of_illegal _ hr), acceptIllegal_frame v s.popTurn⟩

end Sys2Proof.Machine
end

section
/-! The operands of a decoded command as numbers (R60). -/

namespace Sys2Proof.Machine

/-- A pixel write at a negative column is ignored (R73). -/
theorem exec_setpx_of_neg {x : Int} (y : Int) (c : Pixel) (s : State) (hx : x < 0) :
    exec (.setpx x y c) s = .next { s with ci := s.ci + 1 } := by
  have hout : inLogicalGrid s.cfg x y = false := by
    refine Bool.eq_false_of_not_eq_true fun hin => ?_
    obtain ⟨h0, _⟩ := (inLogicalGrid_iff s.cfg x y).mp hin
    omega
  exact execSetpx_outside c hout

/-- Settles O6: the operands of a decoded command are the word's fields, read as numbers. -/
theorem operandsAreTheFields : Obligations.OperandsAreTheFields := by
  unfold Obligations.OperandsAreTheFields
  refine fun w => ⟨fun x y c h => ?_, fun l h => ?_, fun x y c h hX => ?_⟩
  · obtain ⟨rfl, rfl, rfl⟩ := Instr.setpx.inj (inRow_of_decode h).2
    exact ⟨extractLsb'_toInt_div w 16, extractLsb'_toInt_div w 32, extractLsb'_toNat_div w 4 3⟩
  · obtain rfl := Instr.bright.inj (inRow_of_decode h).2
    exact extractLsb'_toNat_div w 8 8
  · obtain ⟨hx, _, _⟩ := Instr.setpx.inj (inRow_of_decode h).2
    have hfield : xField w = 0xFFFF#16 := BitVec.eq_of_toNat_eq ((extractLsb'_toNat_div w 16 16).trans hX)
    obtain rfl : -1 = x := by rw [← hx, hfield]; decide
    exact ⟨rfl, fun s => exec_setpx_of_neg y c s (by decide)⟩

end Sys2Proof.Machine
end

section
/-! The pixel write (R71 to R73) and the mapping it goes through (R72). -/

namespace Sys2Proof.Machine

/-- The host's turn comes only outside a pending swap and a configuration fault (R29). -/
theorem State.holds_lifted_of_mover_host {s : State} (h : s.mover = some .host) :
    s.swapPending = false ∧ s.cfgFault = false := by
  obtain ⟨hm, _⟩ | ⟨hm, _⟩ | ⟨hm, _⟩ | ⟨_, henabled, _⟩ := State.mover_cases h
  · cases hm
  · cases hm
  · cases hm
  · obtain ⟨_, hready⟩ := s.hostEnabled_iff.mp henabled
    obtain ⟨hfault, hswap, _⟩ := s.cmdReady_iff.mp hready
    exact ⟨hswap, hfault⟩

/-- Settles O9: inside the grid the command is one write of the back buffer, outside it only advances `CI`. -/
theorem setpxWritesTheMappedCell : Obligations.SetpxWritesTheMappedCell := by
  unfold Obligations.SetpxWritesTheMappedCell
  intro s x y color
  have hgrid := inLogicalGrid_iff s.cfg x y
  cases hin : inLogicalGrid s.cfg x y with
  | true =>
    exact ⟨_, execSetpx_inside color hin, opField_formatP _ _ color _, State.holds_lifted_of_mover_host, rfl,
      fun _ => ⟨Memory.read_write_same .., fun _ _ _ hother => Memory.read_write_other _ color hother⟩,
      fun hout => absurd (hgrid.mp hin) hout⟩
  | false =>
    exact ⟨_, execSetpx_outside color hin, opField_formatP _ _ color _, State.holds_lifted_of_mover_host, rfl,
      fun hinside => absurd (hgrid.mpr hinside) (Bool.eq_false_iff.mp hin), fun _ => rfl⟩

/-- Column `u` of group `q` of `w` columns has quotient `q` and remainder `u` by `w`. -/
theorem group_col_div_mod {w u : Nat} (q : Nat) (hu : u < w) : (q * w + u) / w = q ∧ (q * w + u) % w = u :=
  (Nat.div_mod_unique (Nat.zero_lt_of_lt hu)).mpr ⟨by rw [Nat.mul_comm, Nat.add_comm], hu⟩

/-- The pixel `(u, v)` of the panel in grid column `k` and grid row `r` is in column `u` and row `v` of its chain panel. -/
theorem mapPos_of_panel {c : Config} {u v : Nat} (k r : Nat) (hu : u < c.panelWidth) (hv : v < c.panelHeight) :
    mapPos c (k * c.panelWidth + u) (r * c.panelHeight + v) = { x := (r * c.nHor + k) * c.panelWidth + u, y := v } := by
  obtain ⟨hcol, hu'⟩ := group_col_div_mod k hu
  obtain ⟨hrow, hv'⟩ := group_col_div_mod r hv
  rw [mapPos, hcol, hu', hrow, hv']

/-- Settles O10: the formula is the definition of `mapPos`, read panel by panel by the quotients and remainders. -/
theorem mapIsRowMajorChain : Obligations.MapIsRowMajorChain :=
  ⟨fun _ _ _ => rfl, fun _ k r _ _ _ hu hv => mapPos_of_panel k r hu hv⟩

end Sys2Proof.Machine
end

section
/-! The back buffer's clear (R81) and the request of the exchange (R83). -/

namespace Sys2Proof.Machine

/-- Settles O12: the command clears the buffer that is not in front. -/
theorem clrbZeroesTheBackBuffer : Obligations.ClrbZeroesTheBackBuffer := fun s =>
  ⟨_, rfl, by decide, State.holds_lifted_of_mover_host, rfl, Memory.read_clear_same s.mem s.backSel,
    Memory.buffer_clear_not s.mem s.frontSel⟩

/-- A `FRAME_SYNC` step with a swap pending exchanges the roles and lifts the request (R93). -/
theorem engineFrameSync_of_swapPending {s : State} (h : s.swapPending = true) :
    engineFrameSync s = { s with frontSel := !s.frontSel, swapPending := false, phase := .settle } := if_pos h

/-- Settles O13: the command sets the bit that `STATUS` shows, and the engine's `FRAME_SYNC` step performs the exchange. -/
theorem swapRequestsTheExchange : Obligations.SwapRequestsTheExchange := by
  unfold Obligations.SwapRequestsTheExchange
  refine ⟨fun s => ?_, fun s hmover hphase hpending => ?_⟩
  · exact ⟨_, rfl, by decide, State.holds_lifted_of_mover_host, rfl, (State.readStatus_flags _).1⟩
  · have hexchange := (engineStep_of_frameSync (s := s.popTurn) hphase).trans (engineFrameSync_of_swapPending hpending)
    exact (step_of_engine hmover).trans (congrArg _ hexchange)

end Sys2Proof.Machine
end

section
/-! The engine's sequence (R91 to R105): which phase leads to `DISABLE` and to `FRAME_SYNC`, who writes `ROW` and
`SWAP_PENDING`, and that an engine step keeps the sequencer's invariant. -/

namespace Sys2Proof.Machine

/-- The phase after the engine's step (R92 to R105). -/
def State.nextPhase (s : State) : Phase :=
  match s.phase with
  | .disable => if s.row = 0#3 then .frameSync else .settle
  | .frameSync => .settle
  | .settle => .rowsel
  | .rowsel => .shiftData
  | .shiftData => .clkHi
  | .clkHi => .clkLo
  | .clkLo => if s.col + 1 < s.cfg.ncols then .shiftData else .latHi
  | .latHi => .latLo
  | .latLo => .enable
  | .enable => .hold
  | .hold => .disable
  | .cfgHalt => .cfgHalt

theorem engineStep_phase (s : State) : (engineStep s).phase = s.nextPhase := by
  unfold engineStep State.nextPhase
  cases hp : s.phase with
  | frameSync => simp only [engineFrameSync_fields]
  | clkLo => simp only [engineClkLo_fields]
  | cfgHalt => exact hp
  | _ => rfl

theorem engineStep_phase_eq_disable_iff (s : State) : (engineStep s).phase = .disable ↔ s.phase = .hold := by
  rw [engineStep_phase, State.nextPhase]
  cases hp : s.phase with
  | disable => by_cases h0 : s.row = 0#3 <;> simp [h0]
  | clkLo => by_cases hnext : s.col + 1 < s.cfg.ncols <;> simp [hnext]
  | _ => simp

theorem engineStep_phase_eq_frameSync_iff (s : State) :
    (engineStep s).phase = .frameSync ↔ s.phase = .disable ∧ s.row = 0#3 := by
  rw [engineStep_phase, State.nextPhase]
  cases hp : s.phase with
  | disable => by_cases h0 : s.row = 0#3 <;> simp [h0]
  | clkLo => by_cases hnext : s.col + 1 < s.cfg.ncols <;> simp [hnext]
  | _ => simp

/-- Only a `HOLD` step writes `ROW` (R105). -/
theorem engineStep_row_of_ne_hold {s : State} (h : s.phase ≠ .hold) : (engineStep s).row = s.row := by
  unfold engineStep
  cases hp : s.phase with
  | frameSync => simp only [engineFrameSync_fields]
  | clkLo => simp only [engineClkLo_fields]
  | hold => exact absurd hp h
  | _ => rfl

/-- Only a `FRAME_SYNC` step writes `SWAP_PENDING` (R93). -/
theorem engineStep_swapPending_of_ne_frameSync {s : State} (h : s.phase ≠ .frameSync) :
    (engineStep s).swapPending = s.swapPending := by
  unfold engineStep
  cases hp : s.phase with
  | frameSync => exact absurd hp h
  | clkLo => simp only [engineClkLo_fields]
  | _ => rfl

theorem State.nextRow_toNat {s : State} (hv : s.cfg.valid = true) (hrow : s.row.toNat < s.cfg.scanRows) :
    s.nextRow.toNat = if s.row.toNat + 1 = s.cfg.scanRows then 0 else s.row.toNat + 1 := by
  obtain ⟨_, hle, _⟩ := Config.scanRows_of_valid hv
  unfold State.nextRow
  split
  · rfl
  · rw [BitVec.toNat_add]
    exact Nat.mod_eq_of_lt (by simp; omega)

theorem State.nextRow_lt {s : State} (hv : s.cfg.valid = true) (hrow : s.row.toNat < s.cfg.scanRows) :
    s.nextRow.toNat < s.cfg.scanRows := by
  rw [State.nextRow_toNat hv hrow]
  split <;> omega

/-- An engine step keeps the sequencer's invariant (R35 items 1 to 5 and 8). -/
theorem seqInv_engineStep {s : State} (hv : s.cfg.valid = true) (h : SeqInv s) : SeqInv (engineStep s) := by
  have hpos : 0 < s.cfg.ncols := Nat.zero_lt_of_lt h.col_lt
  have hnext := State.nextRow_lt hv h.row_lt
  obtain ⟨hhalt, hrow, hcol, hoe, hhold, hclk, hlat, hsync, haddr⟩ := h
  unfold engineStep
  cases hp : s.phase with
  | disable => by_cases h0 : s.row = 0#3 <;> constructor <;> simp_all [engineDisable, Phase.addressed]
  | frameSync =>
    simp only [engineFrameSync_fields]
    constructor <;> simp_all [Phase.addressed]
  | clkLo =>
    simp only [engineClkLo]
    split <;> constructor <;> simp_all [Phase.addressed]
  | cfgHalt => exact absurd hp hhalt
  | _ =>
    constructor <;> simp_all [engineSettle, engineRowsel, engineShiftData, engineClkHi, engineLatHi, engineLatLo,
      engineEnable, engineHold, Phase.addressed]

end Sys2Proof.Machine
end

section
/-! How far the engine is from `FRAME_SYNC` (R107): a count of its own steps that each of them lowers by one. -/

namespace Sys2Proof.Machine

/-- The engine steps from a state to the end of its sub-row, the next `HOLD` step included. -/
def State.subRowStepsLeft (s : State) : Nat :=
  match s.phase with
  | .disable => if s.row = 0#3 then 8 + 3 * s.cfg.ncols else 7 + 3 * s.cfg.ncols
  | .frameSync => 7 + 3 * s.cfg.ncols
  | .settle => 6 + 3 * s.cfg.ncols
  | .rowsel => 5 + 3 * s.cfg.ncols
  | .shiftData => 4 + 3 * (s.cfg.ncols - s.col)
  | .clkHi => 3 + 3 * (s.cfg.ncols - s.col)
  | .clkLo => 2 + 3 * (s.cfg.ncols - s.col)
  | .latHi => 4
  | .latLo => 3
  | .enable => 2
  | .hold => 1
  | .cfgHalt => 0

/-- Every engine step but `HOLD` brings the end of the sub-row one step nearer. -/
theorem subRowStepsLeft_engineStep {s : State} (h : SeqInv s) (hhold : s.phase ≠ .hold) :
    s.subRowStepsLeft = (engineStep s).subRowStepsLeft + 1 := by
  have hcol := h.col_lt
  unfold engineStep
  cases hp : s.phase with
  | disable => by_cases h0 : s.row = 0#3 <;> simp +arith [State.subRowStepsLeft, hp, engineDisable, h0]
  | frameSync => simp +arith [State.subRowStepsLeft, hp, engineFrameSync_fields]
  | clkLo =>
    by_cases hnext : s.col + 1 < s.cfg.ncols <;> simp [State.subRowStepsLeft, hp, engineClkLo, hnext] <;> omega
  | hold => exact absurd hp hhold
  | cfgHalt => exact absurd hp h.not_halted
  | _ =>
    simp +arith [State.subRowStepsLeft, hp, engineSettle, engineRowsel, engineShiftData, engineClkHi, engineLatHi,
      engineLatLo, engineEnable]

/-- A sub-row is `7 + 3*NCOLS` steps long, and sub-row 0 is less than that past its `FRAME_SYNC`. -/
theorem subRowStepsLeft_lt {s : State} (hsync : s.phase ≠ .frameSync) (hstart : ¬(s.phase = .disable ∧ s.row = 0#3)) :
    s.subRowStepsLeft < (7 + 3 * s.cfg.ncols) + s.row.toNat * (7 + 3 * s.cfg.ncols) := by
  unfold State.subRowStepsLeft
  cases hp : s.phase with
  | disable =>
    have h0 : s.row ≠ 0#3 := fun h => hstart ⟨hp, h⟩
    have hpos : 0 < s.row.toNat := by bv_omega
    have hprod := Nat.le_mul_of_pos_left (7 + 3 * s.cfg.ncols) hpos
    simp only [if_neg h0]
    omega
  | frameSync => exact absurd hp hsync
  | _ => simp only; omega

/-- The engine steps from a state to the next `FRAME_SYNC`: the rest of the sub-row, the sub-rows after it and the
`DISABLE` step of sub-row 0. -/
def State.stepsToFrameSync (s : State) : Nat :=
  if s.phase = .frameSync then 0
  else if s.phase = .disable ∧ s.row = 0#3 then 1
  else s.subRowStepsLeft + (s.cfg.scanRows - 1 - s.row.toNat) * (7 + 3 * s.cfg.ncols) + 1

theorem stepsToFrameSync_of_frameSync {s : State} (h : s.phase = .frameSync) : s.stepsToFrameSync = 0 := if_pos h

theorem stepsToFrameSync_of_frameStart {s : State} (hp : s.phase = .disable) (h0 : s.row = 0#3) :
    s.stepsToFrameSync = 1 := by simp [State.stepsToFrameSync, hp, h0]

theorem stepsToFrameSync_of_ne {s : State} (hsync : s.phase ≠ .frameSync)
    (hstart : ¬(s.phase = .disable ∧ s.row = 0#3)) :
    s.stepsToFrameSync =
      s.subRowStepsLeft + (s.cfg.scanRows - 1 - s.row.toNat) * (7 + 3 * s.cfg.ncols) + 1 := by
  rw [State.stepsToFrameSync, if_neg hsync, if_neg hstart]

theorem stepsToFrameSync_eq_zero_iff (s : State) : s.stepsToFrameSync = 0 ↔ s.phase = .frameSync := by
  refine ⟨fun h => ?_, stepsToFrameSync_of_frameSync⟩
  unfold State.stepsToFrameSync at h
  split at h
  · assumption
  · split at h <;> omega

/-- The `HOLD` step ends the sub-row: the next state is the `DISABLE` of the next sub-row, or of sub-row 0. -/
theorem stepsToFrameSync_engineStep_of_hold {s : State} (hv : s.cfg.valid = true) (h : SeqInv s)
    (hp : s.phase = .hold) : s.stepsToFrameSync = (engineStep s).stepsToFrameSync + 1 := by
  have hrow := h.row_lt
  have hnext := State.nextRow_toNat hv hrow
  have hstep : engineStep s = { s with row := s.nextRow, phase := .disable } := engineStep_of_hold hp
  rw [hstep, stepsToFrameSync_of_ne (by simp [hp]) (by simp [hp])]
  by_cases hlast : s.row.toNat + 1 = s.cfg.scanRows
  · have h0 : s.nextRow = 0#3 := if_pos hlast
    rw [stepsToFrameSync_of_frameStart rfl h0]
    have hrows : s.cfg.scanRows - 1 - s.row.toNat = 0 := by omega
    simp [State.subRowStepsLeft, hp, hrows]
  · rw [if_neg hlast] at hnext
    have h0 : s.nextRow ≠ 0#3 := by bv_omega
    have hrows : s.cfg.scanRows - 1 - s.row.toNat = (s.cfg.scanRows - 1 - s.nextRow.toNat) + 1 := by omega
    rw [stepsToFrameSync_of_ne (by simp) (by simp [h0]), hrows, Nat.succ_mul]
    simp +arith [State.subRowStepsLeft, hp, h0]

theorem stepsToFrameSync_engineStep {s : State} (hv : s.cfg.valid = true) (h : SeqInv s)
    (hsync : s.phase ≠ .frameSync) : s.stepsToFrameSync = (engineStep s).stepsToFrameSync + 1 := by
  by_cases hhold : s.phase = .hold
  · exact stepsToFrameSync_engineStep_of_hold hv h hhold
  by_cases hstart : s.phase = .disable ∧ s.row = 0#3
  · rw [stepsToFrameSync_of_frameStart hstart.1 hstart.2,
      stepsToFrameSync_of_frameSync ((engineStep_phase_eq_frameSync_iff s).mpr hstart)]
  · have hnotSync : (engineStep s).phase ≠ .frameSync := mt (engineStep_phase_eq_frameSync_iff s).mp hstart
    have hnotStart : (engineStep s).phase ≠ .disable := mt (engineStep_phase_eq_disable_iff s).mp hhold
    rw [stepsToFrameSync_of_ne hsync hstart, stepsToFrameSync_of_ne hnotSync (fun hs => hnotStart hs.1),
      subRowStepsLeft_engineStep h hhold, engineStep_row_of_ne_hold hhold, engineStep_cfg]
    omega

/-- `FRAME_SYNC` is less than one frame away (R107). -/
theorem stepsToFrameSync_lt_frame {s : State} (hrow : s.row.toNat < s.cfg.scanRows) :
    s.stepsToFrameSync < s.cfg.scanRows * (7 + 3 * s.cfg.ncols) + 1 := by
  by_cases hsync : s.phase = .frameSync
  · rw [stepsToFrameSync_of_frameSync hsync]
    omega
  by_cases hstart : s.phase = .disable ∧ s.row = 0#3
  · rw [stepsToFrameSync_of_frameStart hstart.1 hstart.2]
    have : 0 < s.cfg.scanRows * (7 + 3 * s.cfg.ncols) := Nat.mul_pos (by omega) (by omega)
    omega
  · have hleft := subRowStepsLeft_lt hsync hstart
    have hrows : s.cfg.scanRows = (s.cfg.scanRows - 1 - s.row.toNat) + 1 + s.row.toNat := by omega
    have hsplit := congrArg (· * (7 + 3 * s.cfg.ncols)) hrows
    simp only [Nat.add_mul, Nat.one_mul] at hsplit
    rw [stepsToFrameSync_of_ne hsync hstart]
    omega

/-- After that many engine steps `FRAME_SYNC` is reached, and not sooner. -/
theorem engineRun_stepsToFrameSync {s : State} (hv : s.cfg.valid = true) (h : SeqInv s) :
    (engineRun s.stepsToFrameSync s).phase = .frameSync
      ∧ ∀ k < s.stepsToFrameSync, (engineRun k s).phase ≠ .frameSync := by
  generalize hn : s.stepsToFrameSync = n
  induction n generalizing s with
  | zero => exact ⟨(stepsToFrameSync_eq_zero_iff s).mp hn, nofun⟩
  | succ n ih =>
    have hsync : s.phase ≠ .frameSync := fun hp => by simp [stepsToFrameSync_of_frameSync hp] at hn
    have hstep := stepsToFrameSync_engineStep hv h hsync
    obtain ⟨hreached, hbefore⟩ := ih (by simpa using hv) (seqInv_engineStep hv h) (by omega)
    refine ⟨hreached, fun k hk => ?_⟩
    cases k with
    | zero => exact hsync
    | succ k => exact hbefore k (by omega)

/-- A request made before `FRAME_SYNC` is still pending when the engine gets there. -/
theorem engineRun_swapPending {n : Nat} {s : State} (h : ∀ k < n, (engineRun k s).phase ≠ .frameSync) :
    (engineRun n s).swapPending = s.swapPending := by
  induction n generalizing s with
  | zero => rfl
  | succ n ih =>
    calc (engineRun n (engineStep s)).swapPending
      _ = (engineStep s).swapPending := ih fun k hk => h (k + 1) (by omega)
      _ = s.swapPending := engineStep_swapPending_of_ne_frameSync (h 0 (by omega))

end Sys2Proof.Machine
end

section
/-! A pending swap holds the command port (R84). -/

namespace Sys2Proof.Machine

theorem State.cmdReady_of_swapPending {s : State} (h : s.swapPending = true) : s.cmdReady = false := by
  simp [State.cmdReady, h]

/-- With a swap pending a step outside reset is the engine's, or the release of `rst`. -/
theorem step_cases_of_swapPending {s t : State} (h : s.swapPending = true) (hreset : s.resetDue = false)
    (hstep : step s = .next t) : t = s.leaveReset ∨ t = engineStep s.popTurn := by
  obtain ⟨hdue, _⟩ | ⟨_, _, ht⟩ | ⟨_, _, _, _, ht⟩ | ⟨_, _, _, hready, _⟩ := step_cases hstep
  · cases hdue.symm.trans hreset
  · exact .inl ht
  · exact .inr ht
  · cases hready.symm.trans (State.cmdReady_of_swapPending h)

/-- Settles O21: no host step while the swap is pending, and `FRAME_SYNC` is `stepsToFrameSync` engine steps away. -/
theorem pendingSwapHoldsThePort : Obligations.PendingSwapHoldsThePort := by
  unfold Obligations.PendingSwapHoldsThePort
  intro s hpending
  have hready := State.cmdReady_of_swapPending hpending
  refine ⟨hready, by simp [State.hostEnabled, hready], fun t hreset hstep => ?_, fun hrun => ?_⟩
  · obtain rfl | rfl := step_cases_of_swapPending hpending hreset hstep
    · exact ⟨rfl, rfl, rfl, rfl, fun hlifted => absurd hlifted (by simp [hpending])⟩
    · refine ⟨engineStep_ci _, engineStep_mem _, engineStep_bright _, engineStep_illCmd _, fun hlifted => ?_⟩
      by_contra hsync
      have hkept : (engineStep s.popTurn).swapPending = s.swapPending := engineStep_swapPending_of_ne_frameSync hsync
      cases hlifted.symm.trans (hkept.trans hpending)
  · obtain ⟨hreached, hbefore⟩ := engineRun_stepsToFrameSync hrun.cfg_valid hrun.toSeqInv
    exact ⟨s.stepsToFrameSync, stepsToFrameSync_lt_frame hrun.row_lt, hreached,
      (engineRun_swapPending hbefore).trans hpending⟩

end Sys2Proof.Machine
end

section
/-! What the engine's steps leave unchanged: the frame store (R111), and the address lines outside `ROWSEL` (R95). -/

namespace Sys2Proof.Machine

/-- When the engine moves, the next state is its step. -/
theorem eq_engineStep_of_step {s t : State} (h : s.mover = some .engine) (hstep : step s = .next t) :
    t = engineStep s.popTurn :=
  Host.Outcome.next.inj (hstep.symm.trans (step_of_engine h))

/-- The engine's step under its turn, from the equation of its phase. -/
theorem step_of_engineStep_eq {s t : State} (h : s.mover = some .engine) (ht : engineStep s.popTurn = t) :
    step s = .next t :=
  ht ▸ step_of_engine h

@[simp] theorem engineRun_mem (n : Nat) (s : State) : (engineRun n s).mem = s.mem := by
  induction n generalizing s with
  | zero => rfl
  | succ n ih =>
    calc (engineRun n (engineStep s)).mem
      _ = (engineStep s).mem := ih (engineStep s)
      _ = s.mem := engineStep_mem s

/-- Only a `ROWSEL` step writes `ADDR` (R95). -/
theorem engineStep_addr_of_ne_rowsel {s : State} (h : s.phase ≠ .rowsel) : (engineStep s).addr = s.addr := by
  unfold engineStep
  cases hp : s.phase with
  | frameSync => simp only [engineFrameSync_fields]
  | clkLo => simp only [engineClkLo_fields]
  | rowsel => exact absurd hp h
  | _ => rfl

/-- Settles O37: no phase's step writes `FB`, and so no number of them does. -/
theorem engineNeverWritesTheFrameStore : Obligations.EngineNeverWritesTheFrameStore :=
  ⟨fun s hmover => ⟨_, step_of_engine hmover, engineStep_mem s.popTurn⟩, engineRun_mem⟩

end Sys2Proof.Machine
end

section
/-! What the output ports show at the engine's steps: the duty by `OE_EN` (R126), and the clock, the latch and the
blanking by the phase of a run (R35 items 2 to 5). -/

namespace Sys2Proof.Machine

theorem State.ports_oeDuty_of_disabled {s : State} (h : s.oeEn = false) : s.ports.oeDuty = 0 :=
  if_neg (Bool.eq_false_iff.mp h)

theorem State.ports_oeDuty_of_enabled {s : State} (h : s.oeEn = true) :
    s.ports.oeDuty = s.cfg.maxDuty * s.bright.toNat / 255 :=
  if_pos h

theorem SeqInv.clkR_eq_false {s : State} (h : SeqInv s) (hp : s.phase ≠ .clkLo) : s.clkR = false :=
  Bool.eq_false_iff.mpr (mt h.clk_phase.mp hp)

theorem SeqInv.latR_eq_false {s : State} (h : SeqInv s) (hp : s.phase ≠ .latLo) : s.latR = false :=
  Bool.eq_false_iff.mpr (mt h.lat_phase.mp hp)

/-- The display is enabled in `HOLD` and `DISABLE` only. -/
theorem SeqInv.oeEn_eq_false {s : State} (h : SeqInv s) (hhold : s.phase ≠ .hold) (hdisable : s.phase ≠ .disable) :
    s.oeEn = false :=
  Bool.eq_false_iff.mpr fun hoe => (h.oe_phase hoe).elim hhold hdisable

end Sys2Proof.Machine
end

section
/-! The engine's steps, phase by phase (R92 to R105). -/

namespace Sys2Proof.Machine

/-- Settles O39: each step is the equation of its phase, and a run enters `FRAME_SYNC` blanked, from `DISABLE`. -/
theorem blankingAndFrameSyncSteps : Obligations.BlankingAndFrameSyncSteps := by
  unfold Obligations.BlankingAndFrameSyncSteps
  intro s hmover
  refine ⟨fun hp => ?_, fun hp => ?_, fun t hstep hsync => ?_, fun hrun hp => ?_⟩
  · exact ⟨_, step_of_engineStep_eq hmover (engineStep_of_disable hp), State.ports_oeDuty_of_disabled rfl, rfl⟩
  · exact step_of_engineStep_eq hmover ((engineStep_of_frameSync (s := s.popTurn) hp).trans (engineFrameSync_fields _))
  · obtain rfl := eq_engineStep_of_step hmover hstep
    exact (engineStep_phase_eq_frameSync_iff s.popTurn).mp hsync
  · exact State.ports_oeDuty_of_disabled (hrun.oeEn_eq_false (by simp [hp]) (by simp [hp]))

/-- Settles O40: `ROWSEL` copies `ROW`, which a run keeps below `SCAN_ROWS`, and no other phase writes the address. -/
theorem settleAndRowSelectSteps : Obligations.SettleAndRowSelectSteps := by
  unfold Obligations.SettleAndRowSelectSteps
  intro s hmover
  refine ⟨fun hp => ?_, fun hp => ?_, fun t hstep hp => ?_, rfl⟩
  · exact step_of_engineStep_eq hmover (engineStep_of_settle hp)
  · exact ⟨_, step_of_engineStep_eq hmover (engineStep_of_rowsel hp), rfl, rfl, rfl, rfl, fun hrun => hrun.row_lt⟩
  · obtain rfl := eq_engineStep_of_step hmover hstep
    exact engineStep_addr_of_ne_rowsel (s := s.popTurn) hp

/-- The guarded fetch by the buffer's bounds (R99). -/
theorem fbRead_eq_ite (c : Config) (m : Memory) (b : Bool) (y x : Nat) :
    fbRead c m b y x = if y < c.phyHeight ∧ x < c.phyWidth then m.read b y x else 0#3 := by
  simp only [fbRead, inPhysical_iff, and_comm]

/-- Settles O41: both lanes are guarded fetches at the addresses of `ShiftAddr`, and `SHIFT_DATA` leaves the clock,
which is low outside `CLK_LO`. -/
theorem shiftDataStep : Obligations.ShiftDataStep := by
  unfold Obligations.ShiftDataStep
  rintro s _ _ _ hmover hp rfl rfl rfl
  have hclk : RunInv s → s.clkR = false := fun hrun => hrun.clkR_eq_false (by simp [hp])
  exact ⟨_, step_of_engineStep_eq hmover (engineStep_of_shiftData hp), rfl, fbRead_eq_ite .., fbRead_eq_ite ..,
    rfl, rfl, rfl, rfl, rfl, rfl, fun hrun => ⟨hclk hrun, hclk hrun⟩⟩

theorem engineClkLo_of_lt {s : State} (h : s.col + 1 < s.cfg.ncols) :
    engineClkLo s = { s with clkR := false, col := s.col + 1, phase := .shiftData } := if_pos h

theorem engineClkLo_of_le {s : State} (h : s.cfg.ncols ≤ s.col + 1) :
    engineClkLo s = { s with clkR := false, phase := .latHi } := if_neg (Nat.not_lt.mpr h)

/-- Settles O42: the two branches of `CLK_LO` at the last column, and the clock of a run by its phase. -/
theorem clockSteps : Obligations.ClockSteps := by
  unfold Obligations.ClockSteps
  intro s hmover
  refine ⟨fun hp => ?_, fun hp hnext => ?_, fun hp hlast => ?_, fun hrun hp => ?_, fun hrun hp => ?_⟩
  · exact step_of_engineStep_eq hmover (engineStep_of_clkHi hp)
  · exact step_of_engineStep_eq hmover ((engineStep_of_clkLo (s := s.popTurn) hp).trans (engineClkLo_of_lt hnext))
  · exact step_of_engineStep_eq hmover ((engineStep_of_clkLo (s := s.popTurn) hp).trans (engineClkLo_of_le hlast))
  · exact hrun.clkR_eq_false (by simp [hp])
  · exact ⟨hrun.clk_phase.mpr hp, Config.ncols_of_valid hrun.cfg_valid⟩

/-- Settles O43: each step is the equation of its phase, and a run's phase gives the latch, the clock and `OE_EN`. -/
theorem latchEnableAndHoldSteps : Obligations.LatchEnableAndHoldSteps := by
  unfold Obligations.LatchEnableAndHoldSteps
  intro s hmover
  refine ⟨fun hp => ?_, fun hp => ?_, fun hp => ?_, fun hp => ?_, fun hrun hp => ?_, fun hrun hp => ?_,
    fun hrun hp => ?_, rfl⟩
  · exact step_of_engineStep_eq hmover (engineStep_of_latHi hp)
  · exact step_of_engineStep_eq hmover (engineStep_of_latLo hp)
  · exact ⟨_, step_of_engineStep_eq hmover (engineStep_of_enable hp), rfl, State.ports_oeDuty_of_enabled rfl⟩
  · exact step_of_engineStep_eq hmover (engineStep_of_hold hp)
  · exact ⟨hrun.latR_eq_false (by simp [hp]), hrun.clkR_eq_false (by simp [hp])⟩
  · exact hrun.lat_phase.mpr hp
  · exact State.ports_oeDuty_of_enabled (hrun.hold_oe hp)

end Sys2Proof.Machine
end

section
/-! The words of `BRIGHT` and `NOP` (R58, R61). -/

namespace Sys2Proof

/-- The number of a format L word: `LEVEL` in bits 15:8 and `OP` in bits 3:0 do not overlap (R58). -/
theorem formatL_toNat (level : BitVec 8) (op : BitVec 4) :
    (formatL level op).toNat = level.toNat * 2 ^ 8 + op.toNat := by
  have hop := op.isLt
  have hlow : (fieldAt 64 0 op).toNat = op.toNat := (toNat_fieldAt op (by decide)).trans (Nat.mul_one _)
  rw [formatL, BitVec.or_comm, toNat_or_fieldAt level hlow (by omega) (by decide), Nat.add_comm]

/-- The mask of `NOP` has every bit, so its row holds its match value alone (R61). -/
theorem decode_eq_nop_iff (w : Word64) : decode w = .command .nop ↔ w = 0x0000000000000000#64 := by
  have hmask : Instr.nop.mask = BitVec.allOnes 64 := by decide
  rw [decode_eq_command_iff rfl, inRow_iff_masked, hmask, BitVec.and_allOnes, Instr.matchBits]

end Sys2Proof
end

section
/-! The level and the duty port that shows it (R121, R125, R126), and the command without an effect (R123). -/

namespace Sys2Proof.Machine

/-- No level's duty exceeds `MAX_DUTY` (R125). -/
theorem duty_le_maxDuty (c : Config) (level : BitVec 8) : duty c level ≤ c.maxDuty := by
  have hlevel : level.toNat ≤ 255 := Nat.le_of_lt_succ level.isLt
  calc c.maxDuty * level.toNat / 255
    _ ≤ c.maxDuty * 255 / 255 := Nat.div_le_div_right (Nat.mul_le_mul_left _ hlevel)
    _ = c.maxDuty := Nat.mul_div_cancel _ (by decide)

/-- The `ENABLE` step shows the current level's duty on the port (R104, R126). -/
theorem engineStep_oeDuty_of_enable {s : State} (h : s.phase = .enable) :
    (engineStep s).ports.oeDuty = s.cfg.maxDuty * s.bright.toNat / 255 := by
  rw [engineStep_of_enable h]
  exact State.ports_oeDuty_of_enabled rfl

/-- Settles O14: the command writes one register, which `STATUS`, the `ENABLE` step and, with `OE_EN` 1, the duty port
show. -/
theorem brightSetsTheLevel : Obligations.BrightSetsTheLevel := by
  unfold Obligations.BrightSetsTheLevel
  intro s level
  exact ⟨_, rfl, formatL_toNat level 4#4, State.holds_lifted_of_mover_host, engineStep_oeDuty_of_enable, rfl, rfl,
    State.readStatus_bright _⟩

/-- Settles O15: the command only advances `CI`, and its row of the table is the word 0 alone. -/
theorem nopChangesOnlyTheIndex : Obligations.NopChangesOnlyTheIndex := fun _ =>
  ⟨rfl, decode_eq_nop_iff, State.holds_lifted_of_mover_host⟩

/-- Settles O56: the port by `OE_EN`, and the bound of the duty in either case. -/
theorem dutyPortFollowsLevelAndGate : Obligations.DutyPortFollowsLevelAndGate := by
  unfold Obligations.DutyPortFollowsLevelAndGate
  refine fun s => ⟨rfl, ?_⟩
  cases hoe : s.oeEn with
  | false => exact (State.ports_oeDuty_of_disabled hoe).trans_le (Nat.zero_le _)
  | true => exact (State.ports_oeDuty_of_enabled hoe).trans_le (duty_le_maxDuty s.cfg s.bright)

end Sys2Proof.Machine
end

section
/-! The engine does not read `BRIGHT` (R122). -/

namespace Sys2Proof.Machine

/-- An engine step commutes with a write of `BRIGHT`: no phase's step reads or writes it. -/
theorem engineStep_setBright (s : State) (level : BitVec 8) :
    engineStep { s with bright := level } = { engineStep s with bright := level } := by
  unfold engineStep
  cases hp : s.phase with
  | frameSync => simp only [engineFrameSync_fields]
  | clkLo => simp only [engineClkLo_fields]
  | cfgHalt => simp only [hp]
  | _ => rfl

/-- Any number of engine steps commutes with a write of `BRIGHT`. -/
theorem engineRun_setBright (n : Nat) (s : State) (level : BitVec 8) :
    engineRun n { s with bright := level } = { engineRun n s with bright := level } := by
  induction n generalizing s with
  | zero => rfl
  | succ n ih => rw [engineRun_succ, engineStep_setBright, ih, engineRun_succ]

/-- The least time of the engine's next steps is read from the configuration and the phases alone. -/
theorem engineMinTime_setBright (n : Nat) (s : State) (level : BitVec 8) :
    engineMinTime n { s with bright := level } = engineMinTime n s := by
  induction n generalizing s with
  | zero => rfl
  | succ n ih => rw [engineMinTime, engineStep_setBright, ih, engineMinTime]

/-- Settles O38: by induction on the number of steps, and of the port lines only `OE_DUTY` is computed from `BRIGHT`. -/
theorem brightnessDoesNotMoveTheEngine : Obligations.BrightnessDoesNotMoveTheEngine := fun n s level =>
  ⟨engineRun_setBright n s level, engineMinTime_setBright n s level, rfl⟩

end Sys2Proof.Machine
end

section
/-! Faults: the step that accepts an illegal word (R139), and the fault registers, which only a reset clears (R137,
R146). -/

namespace Sys2Proof.Machine

/-- The host step that accepts an illegal word is that word's acceptance. -/
theorem step_of_host_illegal {s : State} {w : Word64} {r : IllegalReason} (hmover : s.mover = some .host)
    (hoffered : s.offeredWord = some w) (hr : decode w = .illegal r) :
    step s = .next (acceptIllegal w s.popTurn) := by
  obtain ⟨v, hv, hstep⟩ := step_of_host_acceptWord hmover
  obtain rfl : v = w := Option.some.inj (hv.symm.trans hoffered)
  exact hstep.trans (acceptWord_of_illegal _ hr)

/-- Settles O23: the host step is `acceptIllegal`, whose raise writes `ILL_CMD` and `BAD_CMD` and whose advance writes
`CI`. -/
theorem illegalWordIsRecorded : Obligations.IllegalWordIsRecorded :=
  fun _ _ _ hmover hoffered hr => step_of_host_illegal hmover hoffered hr

/-- From `s` to `t` no fault bit is cleared, and `BAD_CMD` keeps a first illegal word (R137, R146). -/
structure FaultsKept (s t : State) : Prop where
  cfgFault : s.cfgFault = true → t.cfgFault = true
  illCmd : s.illCmd = true → t.illCmd = true
  intFault : s.intFault = true → t.intFault = true
  badCmd : s.illCmd = true → t.badCmd = s.badCmd

theorem faultsKept_of_eq {s t : State} (hcfg : t.cfgFault = s.cfgFault) (hill : t.illCmd = s.illCmd)
    (hint : t.intFault = s.intFault) (hbad : t.badCmd = s.badCmd) : FaultsKept s t :=
  ⟨hcfg.trans, hill.trans, hint.trans, fun _ => hbad⟩

/-- No command writes a fault register: the mapper's internal fault cannot occur (R74), so `exec_cases` has no raise. -/
theorem faultsKept_exec {i : Instr} {s t : State} (h : exec i s = .next t) : FaultsKept s t := by
  obtain ⟨rfl, _⟩ | ⟨_, _, _, _, _, rfl⟩ | ⟨_, rfl⟩ | ⟨_, rfl⟩ | ⟨_, _, rfl⟩ := exec_cases h <;>
    exact faultsKept_of_eq rfl rfl rfl rfl

theorem faultsKept_engineStep (s : State) : FaultsKept s (engineStep s) :=
  faultsKept_of_eq (engineStep_cfgFault s) (engineStep_illCmd s) (engineStep_intFault s) (engineStep_badCmd s)

/-- An illegal word raises its fault, and no raise clears a bit. -/
theorem faultsKept_acceptIllegal (w : Word64) (s : State) : FaultsKept s (acceptIllegal w s) := by
  obtain ⟨hcfg, hill, hint, hbad⟩ := s.raiseFault_sticky (.illegalCommand w)
  exact ⟨hcfg, hill, hint, hbad⟩

/-- The turn that a step takes is no fault register. -/
theorem faultsKept_of_popTurn {s t : State} (h : FaultsKept s.popTurn t) : FaultsKept s t :=
  ⟨h.cfgFault, h.illCmd, h.intFault, h.badCmd⟩

/-- Every step but a reset keeps the faults. -/
theorem faultsKept_step {s t : State} (hreset : s.resetDue = false) (hstep : step s = .next t) : FaultsKept s t := by
  obtain ⟨hdue, _⟩ | ⟨_, _, rfl⟩ | ⟨_, _, _, _, rfl⟩ | ⟨_, _, _, _, w, _, ⟨_, _, hexec⟩ | ⟨_, rfl⟩⟩ := step_cases hstep
  · cases hdue.symm.trans hreset
  · exact faultsKept_of_eq rfl rfl rfl rfl
  · exact faultsKept_of_popTurn (faultsKept_engineStep _)
  · exact faultsKept_of_popTurn (faultsKept_exec hexec)
  · exact faultsKept_of_popTurn (faultsKept_acceptIllegal w _)

theorem State.faulted_eq_false_iff (s : State) :
    s.faulted = false ↔ s.cfgFault = false ∧ s.illCmd = false ∧ s.intFault = false := by
  simp [State.faulted, and_assoc]

theorem State.faulted_of_goodEnd {s : State} (h : s.goodEnd = true) : s.faulted = false := by
  rw [State.goodEnd, Bool.and_eq_true, Bool.not_eq_true'] at h
  exact h.2

/-- Settles O24: by the equation of each raise, by `faultsKept_step`, and by the definition of a good end. -/
theorem faultBitsAreSticky : Obligations.FaultBitsAreSticky := by
  unfold Obligations.FaultBitsAreSticky
  refine ⟨fun s => ⟨s.raiseFault_config, s.raiseFault_illegalCommand, s.raiseFault_internalConsistency⟩,
    fun s t hreset hstep => ?_⟩
  have hkept := faultsKept_step hreset hstep
  exact ⟨hkept.cfgFault, hkept.illCmd, hkept.intFault,
    fun hgood => s.faulted_eq_false_iff.mp (State.faulted_of_goodEnd hgood)⟩

/-- A bit that one state has and the next has not was not kept. -/
theorem not_faultsKept_of_cleared {s t : State}
    (h : (s.cfgFault = true ∧ t.cfgFault = false) ∨ (s.illCmd = true ∧ t.illCmd = false)
      ∨ (s.intFault = true ∧ t.intFault = false)) : ¬FaultsKept s t := by
  intro hkept
  obtain ⟨hset, hclear⟩ | ⟨hset, hclear⟩ | ⟨hset, hclear⟩ := h
  · cases hclear.symm.trans (hkept.cfgFault hset)
  · cases hclear.symm.trans (hkept.illCmd hset)
  · cases hclear.symm.trans (hkept.intFault hset)

/-- Settles O25: a step outside reset keeps the faults, so one that clears a bit is a reset; a reset writes the reset
values. -/
theorem firstIllegalWordIsKept : Obligations.FirstIllegalWordIsKept := by
  unfold Obligations.FirstIllegalWordIsKept
  refine fun s => ⟨fun hill t hreset hstep => ?_, fun t hstep hcleared => ?_, fun hreset => ?_⟩
  · have hkept := faultsKept_step hreset hstep
    exact ⟨hkept.illCmd hill, hkept.badCmd hill⟩
  · by_contra hreset
    exact not_faultsKept_of_cleared hcleared (faultsKept_step (Bool.eq_false_of_not_eq_true hreset) hstep)
  · exact ⟨s.enterReset, step_of_reset hreset, s.enterReset_illCmd, s.enterReset_intFault, s.enterReset_badCmd,
      fun hvalid => by simp [State.resetOf, hvalid]⟩

end Sys2Proof.Machine
end

section
/-! The engine's first steps of a frame, and of a run after a good reset (R157). -/

namespace Sys2Proof.Machine

/-- The last step of a run of the engine. -/
theorem engineRun_succ_last (n : Nat) (s : State) : engineRun (n + 1) s = engineStep (engineRun n s) :=
  engineRun_add n 1 s

/-- The engine starts a frame with the blanking of sub-row 0, which leads to `FRAME_SYNC` (R92). -/
theorem engineRun_one_of_frameStart {s : State} (hp : s.phase = .disable) (h0 : s.row = 0#3) :
    engineRun 1 s = { s with oeEn := false, phase := .frameSync } := by
  rw [engineRun_succ_last, engineRun_zero, engineStep_of_disable hp, engineDisable, if_pos h0]

/-- The second step of a frame performs the swap that was pending at the first (R93). -/
theorem engineRun_two_of_frameStart {s : State} (hp : s.phase = .disable) (h0 : s.row = 0#3) :
    engineRun 2 s =
      { s with
        oeEn := false
        frontSel := if s.swapPending = true then !s.frontSel else s.frontSel
        swapPending := false
        phase := .settle } := by
  have hfirst := engineRun_one_of_frameStart hp h0
  have hsync : (engineRun 1 s).phase = .frameSync := congrArg State.phase hfirst
  rw [engineRun_succ_last, engineStep_of_frameSync hsync, engineFrameSync_fields, hfirst]

/-- The third step of a frame ends the settling time of sub-row 0 (R94). -/
theorem engineRun_three_of_frameStart {s : State} (hp : s.phase = .disable) (h0 : s.row = 0#3) :
    engineRun 3 s = { engineRun 2 s with phase := .rowsel } := by
  have hsettle : (engineRun 2 s).phase = .settle := congrArg State.phase (engineRun_two_of_frameStart hp h0)
  rw [engineRun_succ_last, engineStep_of_settle hsettle, engineSettle]

/-- The fourth step of a frame selects sub-row 0 and starts its shift (R95). -/
theorem engineRun_four_phase_of_frameStart {s : State} (hp : s.phase = .disable) (h0 : s.row = 0#3) :
    (engineRun 4 s).phase = .shiftData := by
  have hrowsel : (engineRun 3 s).phase = .rowsel := congrArg State.phase (engineRun_three_of_frameStart hp h0)
  rw [engineRun_succ_last, engineStep_of_rowsel hrowsel, engineRowsel]

theorem State.resetOf_phase_of_valid {c : Config} (h : c.valid = true) : (State.resetOf c).phase = .disable := if_pos h

theorem State.resetOf_phase_of_not_valid {c : Config} (h : c.valid = false) : (State.resetOf c).phase = .cfgHalt :=
  if_neg (Bool.eq_false_iff.mp h)

theorem State.resetOf_cfgFault_of_valid {c : Config} (h : c.valid = true) : (State.resetOf c).cfgFault = false :=
  congrArg not h

/-- Settles O29: a good reset leaves the engine at the start of a frame, with or without an early swap request. -/
theorem resetStartsOrHaltsTheEngine : Obligations.ResetStartsOrHaltsTheEngine := by
  unfold Obligations.ResetStartsOrHaltsTheEngine
  refine fun c => ⟨fun hv => ?_, fun hv => ?_⟩
  · have hp := State.resetOf_phase_of_valid hv
    have hfirst := engineRun_one_of_frameStart hp rfl
    have hsecond := engineRun_two_of_frameStart hp rfl
    have hthird := engineRun_three_of_frameStart hp rfl
    have hfourth := engineRun_four_phase_of_frameStart hp rfl
    have hkept := engineRun_one_of_frameStart (s := { State.resetOf c with swapPending := true }) hp rfl
    have hswapped := engineRun_two_of_frameStart (s := { State.resetOf c with swapPending := true }) hp rfl
    exact ⟨State.resetOf_cfgFault_of_valid hv, hp, rfl, congrArg State.phase hfirst, congrArg State.phase hsecond,
      congrArg State.phase hthird, hfourth, congrArg State.frontSel hkept, congrArg State.frontSel hswapped⟩
  · exact ⟨(State.resetOf_cfgFault_iff c).mpr hv, State.resetOf_phase_of_not_valid hv⟩

end Sys2Proof.Machine
end

section
/-! How many of its own steps the engine takes for a sub-row and for a frame (R107). -/

namespace Sys2Proof.Machine

/-- Settles O49: `FRAME_SYNC` is `stepsToFrameSync` engine steps away, which is less than a frame. -/
theorem frameSyncComesWithinAFrame : Obligations.FrameSyncComesWithinAFrame := fun s hrun =>
  ⟨s.stepsToFrameSync, stepsToFrameSync_lt_frame hrun.row_lt,
    (engineRun_stepsToFrameSync hrun.cfg_valid hrun.toSeqInv).1⟩

theorem subRowStepsLeft_of_disable {s : State} (hp : s.phase = .disable) :
    s.subRowStepsLeft = if s.row = 0#3 then 8 + 3 * s.cfg.ncols else 7 + 3 * s.cfg.ncols := by
  simp [State.subRowStepsLeft, hp]

theorem subRowStepsLeft_of_hold {s : State} (hp : s.phase = .hold) : s.subRowStepsLeft = 1 := by
  simp [State.subRowStepsLeft, hp]

/-- Before its `HOLD` step a sub-row stays the current one, so the sub-row after it stays the same too. -/
theorem nextRow_engineStep_of_ne_hold {s : State} (h : s.phase ≠ .hold) : (engineStep s).nextRow = s.nextRow := by
  rw [State.nextRow, State.nextRow, engineStep_row_of_ne_hold h, engineStep_cfg]

/-- After the steps left in its sub-row the engine is at the `DISABLE` of the next one, and not sooner. -/
theorem engineRun_subRow {s : State} (hv : s.cfg.valid = true) (h : SeqInv s) :
    (engineRun s.subRowStepsLeft s).phase = .disable ∧ (engineRun s.subRowStepsLeft s).row = s.nextRow
      ∧ ∀ k, 0 < k → k < s.subRowStepsLeft → (engineRun k s).phase ≠ .disable := by
  generalize hn : s.subRowStepsLeft = n
  induction n generalizing s with
  | zero =>
    by_cases hp : s.phase = .hold
    · simp [subRowStepsLeft_of_hold hp] at hn
    · simp [subRowStepsLeft_engineStep h hp] at hn
  | succ n ih =>
    by_cases hp : s.phase = .hold
    · obtain rfl : n = 0 := by simpa [subRowStepsLeft_of_hold hp] using hn.symm
      rw [engineRun_succ, engineRun_zero, engineStep_of_hold hp]
      exact ⟨rfl, rfl, fun k _ _ => by omega⟩
    · have hleft := subRowStepsLeft_engineStep h hp
      obtain ⟨hphase, hrow, hbefore⟩ := ih (by simpa using hv) (seqInv_engineStep hv h) (by omega)
      refine ⟨hphase, hrow.trans (nextRow_engineStep_of_ne_hold hp), fun k _ hk => ?_⟩
      match k with
      | 1 => exact mt (engineStep_phase_eq_disable_iff s).mp hp
      | k + 2 => exact hbefore (k + 1) (by omega) (by omega)

/-- Settles O47: a `DISABLE` step has the whole sub-row before it. -/
theorem subRowTakesItsSteps : Obligations.SubRowTakesItsSteps := by
  unfold Obligations.SubRowTakesItsSteps
  intro s len hrun hp hlen
  obtain rfl : len = s.subRowStepsLeft := hlen.trans (subRowStepsLeft_of_disable hp).symm
  exact engineRun_subRow hrun.cfg_valid hrun.toSeqInv

/-- The sequencer's invariant holds after any number of engine steps. -/
theorem seqInv_engineRun (n : Nat) {s : State} (hv : s.cfg.valid = true) (h : SeqInv s) : SeqInv (engineRun n s) := by
  induction n generalizing s with
  | zero => exact h
  | succ n ih => exact ih (by simpa using hv) (seqInv_engineStep hv h)

@[simp] theorem engineRun_cfg (n : Nat) (s : State) : (engineRun n s).cfg = s.cfg := by
  induction n generalizing s with
  | zero => rfl
  | succ n ih => exact (ih (engineStep s)).trans (engineStep_cfg s)

/-- Right after the `FRAME_SYNC` of a frame the next one is a frame of steps away. -/
theorem stepsToFrameSync_of_frameStart_two {s : State} (hrow : s.row.toNat < s.cfg.scanRows) (hp : s.phase = .disable)
    (h0 : s.row = 0#3) :
    (engineRun 2 s).stepsToFrameSync = s.cfg.scanRows * (7 + 3 * s.cfg.ncols) := by
  have hrows : s.cfg.scanRows = (s.cfg.scanRows - 1) + 1 := by omega
  rw [engineRun_two_of_frameStart hp h0, stepsToFrameSync_of_ne (by simp) (by simp)]
  conv => rhs; rw [hrows, Nat.succ_mul]
  simp +arith [State.subRowStepsLeft, h0]

/-- The state before a `FRAME_SYNC` is the start of a frame. -/
theorem engineRun_frameSync_iff (n : Nat) (s : State) :
    (engineRun (n + 1) s).phase = .frameSync ↔ (engineRun n s).phase = .disable ∧ (engineRun n s).row = 0#3 := by
  rw [engineRun_succ_last, engineStep_phase_eq_frameSync_iff]

/-- Settles O48: a frame starts one step before a `FRAME_SYNC`, and from one `FRAME_SYNC` to the next is a frame. -/
theorem frameTakesItsSteps : Obligations.FrameTakesItsSteps := by
  unfold Obligations.FrameTakesItsSteps
  rintro s _ hrun hp h0 rfl
  have hlen := stepsToFrameSync_of_frameStart_two hrun.row_lt hp h0
  have hinv := seqInv_engineRun 2 hrun.cfg_valid hrun.toSeqInv
  obtain ⟨hreached, hbefore⟩ := engineRun_stepsToFrameSync (by simpa using hrun.cfg_valid) hinv
  rw [hlen] at hreached hbefore
  have hshift : ∀ j, engineRun j (engineRun 2 s) = engineRun (1 + j + 1) s := fun j => by
    rw [← engineRun_add, show 2 + j = 1 + j + 1 by omega]
  simp only [hshift, ne_eq, engineRun_frameSync_iff] at hreached hbefore
  rw [Nat.add_comm _ 1]
  refine ⟨hreached.1, hreached.2, fun k hk hlt => ?_⟩
  obtain ⟨j, rfl⟩ := Nat.exists_eq_add_of_le hk
  exact hbefore j (by omega)

end Sys2Proof.Machine
end

section
/-! The encoder against the decoder (R57 to R64), and a word as the join of its adjacent fields (R43). -/

namespace Sys2Proof

/-! ## A word as the join of its fields -/

/-- Two fields read from adjacent places of a word are one field of it. -/
theorem or_fieldAt_extractLsb'_adjacent {w : Nat} (a : BitVec w) (lo n m : Nat) :
    fieldAt w (lo + n) (a.extractLsb' (lo + n) m) ||| fieldAt w lo (a.extractLsb' lo n) =
      fieldAt w lo (a.extractLsb' lo (n + m)) := by
  apply word_ext
  intro k hk
  simp only [BitVec.getLsbD_or, getLsbD_fieldAt, BitVec.getLsbD_extractLsb', hk, decide_true, Bool.true_and]
  by_cases hlow : lo ≤ k
  · have hadd : lo + (k - lo) = k := by omega
    by_cases hhigh : lo + n ≤ k
    · have hadd' : lo + n + (k - (lo + n)) = k := by omega
      have hin : k < lo + (n + m) ↔ k < lo + n + m := by omega
      have hlt : k - lo < n + m ↔ k - (lo + n) < m := by omega
      simp [hlow, hhigh, hadd, hadd', hin, hlt]
    · have hlt : k - lo < n := by omega
      have hlt' : k - lo < n + m := by omega
      have hin : k < lo + n := by omega
      have hin' : k < lo + (n + m) := by omega
      simp [hlow, hhigh, hadd, hlt, hlt', hin, hin']
  · have hhigh : ¬lo + n ≤ k := by omega
    simp [hlow, hhigh]

/-- The whole word is one field. -/
theorem fieldAt_extractLsb'_whole {w : Nat} (a : BitVec w) : fieldAt w 0 (a.extractLsb' 0 w) = a := by
  apply word_ext
  intro k hk
  simp [hk]

@[simp] theorem fieldAt_zero (w lo n : Nat) : fieldAt w lo 0#n = 0#w := by simp [fieldAt]

/-- A format Z word whose reserved field is zero is its `OP`. -/
theorem formatZ_opField {w : Word64} (h : zReservedZero w = true) : formatZ (opField w) = w := by
  have hz : w.extractLsb' 4 60 = 0#60 := by simpa [zReservedZero] using h
  calc formatZ (opField w)
    _ = fieldAt 64 4 (w.extractLsb' 4 60) ||| fieldAt 64 0 (w.extractLsb' 0 4) := by simp [hz, formatZ, opField]
    _ = w := (or_fieldAt_extractLsb'_adjacent w 0 4 60).trans (fieldAt_extractLsb'_whole w)

/-- A format P word whose reserved fields are zero is its four other fields. -/
theorem formatP_fields {w : Word64} (h : pReservedZero w = true) :
    formatP (xField w) (yField w) (colorField w) (opField w) = w := by
  obtain ⟨hz3, hz2⟩ : w.extractLsb' 48 16 = 0#16 ∧ w.extractLsb' 7 9 = 0#9 := by simpa [pReservedZero] using h
  calc formatP (xField w) (yField w) (colorField w) (opField w)
    _ = fieldAt 64 48 (w.extractLsb' 48 16) ||| fieldAt 64 32 (w.extractLsb' 32 16)
          ||| fieldAt 64 16 (w.extractLsb' 16 16) ||| fieldAt 64 7 (w.extractLsb' 7 9)
          ||| fieldAt 64 4 (w.extractLsb' 4 3) ||| fieldAt 64 0 (w.extractLsb' 0 4) := by
      simp [hz3, hz2, formatP, opField, colorField, xField, yField]
    _ = w := by
      rw [or_fieldAt_extractLsb'_adjacent w 32 16 16, or_fieldAt_extractLsb'_adjacent w 16 16 32,
        or_fieldAt_extractLsb'_adjacent w 7 9 48, or_fieldAt_extractLsb'_adjacent w 4 3 57,
        or_fieldAt_extractLsb'_adjacent w 0 4 60, fieldAt_extractLsb'_whole]

/-- A format L word whose reserved fields are zero is its level and its `OP`. -/
theorem formatL_fields {w : Word64} (h : lReservedZero w = true) : formatL (levelField w) (opField w) = w := by
  obtain ⟨hz3, hz1⟩ : w.extractLsb' 16 48 = 0#48 ∧ w.extractLsb' 4 4 = 0#4 := by simpa [lReservedZero] using h
  calc formatL (levelField w) (opField w)
    _ = fieldAt 64 16 (w.extractLsb' 16 48) ||| fieldAt 64 8 (w.extractLsb' 8 8)
          ||| fieldAt 64 4 (w.extractLsb' 4 4) ||| fieldAt 64 0 (w.extractLsb' 0 4) := by
      simp [hz3, hz1, formatL, opField, levelField]
    _ = w := by
      rw [or_fieldAt_extractLsb'_adjacent w 8 8 48, or_fieldAt_extractLsb'_adjacent w 4 4 56,
        or_fieldAt_extractLsb'_adjacent w 0 4 60, fieldAt_extractLsb'_whole]

/-! ## The fields of an encoded command -/

theorem zReservedZero_formatZ (op : BitVec 4) : zReservedZero (formatZ op) = true := by
  simp [zReservedZero, extractLsb'_formatZ]

theorem opField_formatZ (op : BitVec 4) : opField (formatZ op) = op := extractLsb'_fieldAt_same op (by decide)

theorem pReservedZero_formatP (x y : BitVec 16) (color : Pixel) (op : BitVec 4) :
    pReservedZero (formatP x y color op) = true := by
  simp [pReservedZero, formatP, BitVec.extractLsb'_or, extractLsb'_fieldAt_disjoint]

theorem operands_formatP (x y : BitVec 16) (color : Pixel) (op : BitVec 4) :
    xField (formatP x y color op) = x ∧ yField (formatP x y color op) = y
      ∧ colorField (formatP x y color op) = color := by
  simp [xField, yField, colorField, formatP, BitVec.extractLsb'_or, extractLsb'_fieldAt_same,
    extractLsb'_fieldAt_disjoint]

theorem lReservedZero_formatL (level : BitVec 8) (op : BitVec 4) : lReservedZero (formatL level op) = true := by
  simp [lReservedZero, formatL, BitVec.extractLsb'_or, extractLsb'_fieldAt_disjoint]

theorem levelField_formatL (level : BitVec 8) (op : BitVec 4) : levelField (formatL level op) = level := by
  simp [levelField, formatL, BitVec.extractLsb'_or, extractLsb'_fieldAt_same, extractLsb'_fieldAt_disjoint]

/-- `OP` and the reserved fields of an encoded command are those of its row. -/
theorem inRow_encode (i : Instr) : inRow i (encode i) = true := by
  rw [inRow_iff_fields]
  cases i with
  | nop => exact ⟨opField_formatZ _, zReservedZero_formatZ _⟩
  | setpx x y c => exact ⟨opField_formatP _ _ c _, pReservedZero_formatP _ _ c _⟩
  | clrb => exact ⟨opField_formatZ _, zReservedZero_formatZ _⟩
  | swap => exact ⟨opField_formatZ _, zReservedZero_formatZ _⟩
  | bright l => exact ⟨opField_formatL l _, lReservedZero_formatL l _⟩

/-! ## Coordinates -/

theorem coordFits_iff (v : Int) : coordFits v = true ↔ -32768 ≤ v ∧ v ≤ 32767 := by simp [coordFits]

/-- A coordinate that fits its field is read back from it. -/
theorem toInt_ofInt_of_coordFits {v : Int} (h : coordFits v = true) : (BitVec.ofInt 16 v).toInt = v := by
  obtain ⟨hlo, hhi⟩ := (coordFits_iff v).mp h
  exact BitVec.toInt_ofInt_eq_self (by decide) (by simpa using hlo) (by simp; omega)

/-- What a 16-bit field holds fits it. -/
theorem coordFits_toInt (b : BitVec 16) : coordFits b.toInt = true := by
  have hlo := b.le_toInt
  have hhi := b.toInt_lt
  rw [coordFits_iff]
  simp only [Nat.add_one_sub_one] at hlo hhi
  omega

/-! ## Both directions -/

/-- The operands of a well-formed command are the fields of its word. -/
theorem withFields_encode {i : Instr} (h : i.wellFormed = true) : i.withFields (encode i) = i := by
  cases i with
  | setpx x y c =>
    obtain ⟨hx, hy⟩ : coordFits x = true ∧ coordFits y = true := by simpa [Instr.wellFormed] using h
    obtain ⟨hX, hY, hC⟩ := operands_formatP (BitVec.ofInt 16 x) (BitVec.ofInt 16 y) c (Instr.setpx x y c).opcode
    rw [Instr.withFields, encode, hX, hY, hC, toInt_ofInt_of_coordFits hx, toInt_ofInt_of_coordFits hy]
  | bright l => exact congrArg Instr.bright (levelField_formatL l _)
  | _ => rfl

/-- Settles O2: the word of a command is in the command's row, and the operands are its fields. -/
theorem decodeOfEncode : Obligations.DecodeOfEncode := fun i h =>
  (decode_eq_command_iff (withFields_encode h)).mpr (inRow_encode i)

/-- The command of a row with a word's fields as operands is well-formed, whatever the word. -/
theorem wellFormed_withFields (w : Word64) (i : Instr) : (i.withFields w).wellFormed = true := by
  cases i with
  | setpx x y c => simp [Instr.withFields, Instr.wellFormed, coordFits_toInt]
  | _ => rfl

/-- A word in a row is the word of the row's command with the word's fields as operands. -/
theorem encode_withFields {i : Instr} {w : Word64} (h : inRow i w = true) : encode (i.withFields w) = w := by
  obtain ⟨hop, hzero⟩ := (inRow_iff_fields i w).mp h
  cases i with
  | nop => exact (congrArg formatZ hop).symm.trans (formatZ_opField hzero)
  | setpx x y c =>
    have hword := formatP_fields hzero
    rw [hop] at hword
    rwa [Instr.withFields, encode, BitVec.ofInt_toInt, BitVec.ofInt_toInt]
  | clrb => exact (congrArg formatZ hop).symm.trans (formatZ_opField hzero)
  | swap => exact (congrArg formatZ hop).symm.trans (formatZ_opField hzero)
  | bright l => exact (congrArg (formatL _) hop).symm.trans (formatL_fields hzero)

/-- Settles O3: such a word is in the command's row, and the command's operands are the word's fields. -/
theorem encodeOfDecode : Obligations.EncodeOfDecode := by
  unfold Obligations.EncodeOfDecode
  intro w i h
  obtain ⟨hrow, hfields⟩ := inRow_of_decode h
  exact ⟨hfields ▸ wellFormed_withFields w i, (congrArg encode hfields).symm.trans (encode_withFields hrow)⟩

/-- Settles O1: the eleven words, decoded. -/
theorem specWordsDecode : Obligations.SpecWordsDecode := by
  unfold Obligations.SpecWordsDecode
  decide

/-! ## Bytes -/

/-- The eight bytes of a word, lowest first, are the word (R43). -/
theorem assembleWord_bytesOfWord (w : Word64) (rest : List Byte) :
    assembleWord (bytesOfWord w ++ rest) = some (w, rest) := by
  have hjoin : fieldAt 64 56 (byteOfWord w 7) ||| fieldAt 64 48 (byteOfWord w 6) ||| fieldAt 64 40 (byteOfWord w 5)
      ||| fieldAt 64 32 (byteOfWord w 4) ||| fieldAt 64 24 (byteOfWord w 3) ||| fieldAt 64 16 (byteOfWord w 2)
      ||| fieldAt 64 8 (byteOfWord w 1) ||| fieldAt 64 0 (byteOfWord w 0) = w := by
    simp only [byteOfWord]
    rw [or_fieldAt_extractLsb'_adjacent w 48 8 8, or_fieldAt_extractLsb'_adjacent w 40 8 16,
      or_fieldAt_extractLsb'_adjacent w 32 8 24, or_fieldAt_extractLsb'_adjacent w 24 8 32,
      or_fieldAt_extractLsb'_adjacent w 16 8 40, or_fieldAt_extractLsb'_adjacent w 8 8 48,
      or_fieldAt_extractLsb'_adjacent w 0 8 56, fieldAt_extractLsb'_whole]
  exact congrArg (fun v => some (v, rest)) hjoin

/-- Fewer than eight bytes are no word. -/
theorem assembleWord_of_length_lt {bs : List Byte} (h : bs.length < 8) : assembleWord bs = none := by
  unfold assembleWord
  split
  · simp only [List.length_cons] at h
    omega
  · rfl

/-- Settles O7: a byte is a field of the word, eight bytes join to it, and fewer are none. -/
theorem bytesCarryTheWordLittleEndian : Obligations.BytesCarryTheWordLittleEndian := by
  unfold Obligations.BytesCarryTheWordLittleEndian
  refine ⟨fun w rest => ?_, fun w k _ => extractLsb'_toNat_div w (8 * k) 8, fun bs h => ?_⟩
  · rw [decodeBytes, assembleWord_bytesOfWord, Option.map_some]
  · rw [decodeBytes, assembleWord_of_length_lt h, Option.map_none]

end Sys2Proof
end

section
/-! What the assembler answers (R64, R65): each kind of operand by its range, and each mnemonic by its operands. -/

namespace Sys2Proof.Machine

/-! ## Operands -/

theorem parseRange_eq_ok_iff (lo hi : Int) (cs : List Char) (v : Int) :
    parseRange lo hi cs = .ok v ↔ parseInt cs = some v ∧ lo ≤ v ∧ v ≤ hi := by
  unfold parseRange
  cases parseInt cs with
  | none => simp
  | some u =>
    by_cases hu : lo ≤ u ∧ u ≤ hi
    · simp only [if_pos hu, Except.ok.injEq, Option.some.injEq]
      exact ⟨fun h => ⟨h, h ▸ hu⟩, And.left⟩
    · simp only [if_neg hu, Option.some.injEq, reduceCtorEq, false_iff]
      rintro ⟨rfl, hv⟩
      exact hu hv

/-- An operand from 0 to the highest number of `n` bits stands for the word of that number. -/
theorem parseRange_map_ofInt_eq_ok_iff {n : Nat} {hi : Int} (hhi : hi + 1 = 2 ^ n) (cs : List Char) (b : BitVec n) :
    (parseRange 0 hi cs).map (BitVec.ofInt n) = .ok b ↔ parseInt cs = some (b.toNat : Int) := by
  have hb : (b.toNat : Int) < 2 ^ n := by exact_mod_cast b.isLt
  constructor
  · intro h
    cases hp : parseRange 0 hi cs with
    | error e => simp [hp, Except.map] at h
    | ok v =>
      obtain ⟨hparse, h0, hv⟩ := (parseRange_eq_ok_iff 0 hi cs v).mp hp
      obtain rfl : BitVec.ofInt n v = b := by simpa [hp, Except.map] using h
      have hmod : v % 2 ^ n = v := Int.emod_eq_of_lt h0 (by omega)
      rw [hparse, BitVec.toNat_ofInt, Nat.cast_pow, Nat.cast_ofNat, hmod, Int.toNat_of_nonneg h0]
  · intro h
    have hp := (parseRange_eq_ok_iff 0 hi cs b.toNat).mpr ⟨h, by omega, by omega⟩
    rw [hp, Except.map, BitVec.ofInt_natCast, BitVec.ofNat_toNat, BitVec.setWidth_eq]

theorem parseCoord_eq_ok_iff (cs : List Char) (v : Int) :
    parseCoord cs = .ok v ↔ parseInt cs = some v ∧ -32768 ≤ v ∧ v ≤ 32767 := parseRange_eq_ok_iff _ _ cs v

theorem parseLevel_eq_ok_iff (cs : List Char) (l : BitVec 8) :
    parseLevel cs = .ok l ↔ parseInt cs = some (l.toNat : Int) := parseRange_map_ofInt_eq_ok_iff (by decide) cs l

theorem parseWord_eq_ok_iff (cs : List Char) (w : Word64) :
    parseWord cs = .ok w ↔ parseInt cs = some (w.toNat : Int) := parseRange_map_ofInt_eq_ok_iff (by decide) cs w

theorem parseColor_eq_ok_iff (cs : List Char) (p : Pixel) :
    parseColor cs = .ok p ↔
      colorNames.lookup cs = some p ∨ (colorNames.lookup cs = none ∧ parseInt cs = some (p.toNat : Int)) := by
  unfold parseColor
  cases hname : colorNames.lookup cs with
  | none => simpa using parseRange_map_ofInt_eq_ok_iff (n := 3) (by decide) cs p
  | some q => simp

/-! ## Mnemonics -/

theorem noOperands_eq_command_iff (i j : Instr) (ops : List (List Char)) :
    noOperands i ops = .command j ↔ ops = [] ∧ j = i := by
  cases ops <;> simp [noOperands, eq_comm]

theorem asmSetpx_eq_command_iff (ops : List (List Char)) (i : Instr) :
    asmSetpx ops = .command i ↔ ∃ a b c x y p, ops = [a, b, c] ∧ parseCoord a = .ok x ∧ parseCoord b = .ok y
      ∧ parseColor c = .ok p ∧ i = .setpx x y p := by
  constructor
  · intro h
    unfold asmSetpx at h
    split at h
    · next a b c =>
      split at h
      · next x y p hx hy hp => exact ⟨a, b, c, x, y, p, rfl, hx, hy, hp, (AsmResult.command.inj h).symm⟩
      all_goals cases h
    · cases h
  · rintro ⟨a, b, c, x, y, p, rfl, hx, hy, hp, rfl⟩
    simp [asmSetpx, hx, hy, hp]

theorem asmClrpx_eq_command_iff (ops : List (List Char)) (i : Instr) :
    asmClrpx ops = .command i ↔
      ∃ a b x y, ops = [a, b] ∧ parseCoord a = .ok x ∧ parseCoord b = .ok y ∧ i = .setpx x y 0#3 := by
  constructor
  · intro h
    unfold asmClrpx at h
    split at h
    · next a b =>
      split at h
      · next x y hx hy => exact ⟨a, b, x, y, rfl, hx, hy, (AsmResult.command.inj h).symm⟩
      all_goals cases h
    · cases h
  · rintro ⟨a, b, x, y, rfl, hx, hy, rfl⟩
    simp [asmClrpx, hx, hy, Pseudo.expand]

theorem asmBright_eq_command_iff (ops : List (List Char)) (i : Instr) :
    asmBright ops = .command i ↔ ∃ a l, ops = [a] ∧ parseLevel a = .ok l ∧ i = .bright l := by
  constructor
  · intro h
    unfold asmBright at h
    split at h
    · next a =>
      split at h
      · next l hl => exact ⟨a, l, rfl, hl, (AsmResult.command.inj h).symm⟩
      · cases h
    · cases h
  · rintro ⟨a, l, rfl, hl, rfl⟩
    simp [asmBright, hl]

theorem asmWord_ne_command (ops : List (List Char)) (i : Instr) : asmWord ops ≠ .command i := by
  unfold asmWord
  repeat' split
  all_goals nofun

theorem asmWord_eq_raw_iff (a : List Char) (w : Word64) : asmWord [a] = .raw w ↔ parseWord a = .ok w := by
  cases hw : parseWord a <;> simp [asmWord, hw]

/-! ## The command of a line -/

/-- The coordinates that the assembler takes fit their fields (R64). -/
theorem wellFormed_setpx_of_parseCoord {a b : List Char} {x y : Int} (p : Pixel) (hx : parseCoord a = .ok x)
    (hy : parseCoord b = .ok y) : (Instr.setpx x y p).wellFormed = true := by
  have hx' := ((parseCoord_eq_ok_iff a x).mp hx).2
  have hy' := ((parseCoord_eq_ok_iff b y).mp hy).2
  simp [Instr.wellFormed, coordFits_iff, hx', hy']

/-- Every command that a mnemonic gives is well-formed: only coordinates could miss their fields. -/
theorem wellFormed_of_asmCommand {m : List Char} {ops : List (List Char)} {i : Instr}
    (h : asmCommand m ops = .command i) : i.wellFormed = true := by
  have hplain : ∀ {j : Instr}, j.wellFormed = true → noOperands j ops = .command i → i.wellFormed = true := by
    intro j hj hi
    rwa [((noOperands_eq_command_iff j i ops).mp hi).2]
  unfold asmCommand at h
  split_ifs at h
  · exact hplain rfl h
  · obtain ⟨_, _, _, _, _, p, _, hx, hy, _, rfl⟩ := (asmSetpx_eq_command_iff ops i).mp h
    exact wellFormed_setpx_of_parseCoord p hx hy
  · exact hplain rfl h
  · exact hplain rfl h
  · obtain ⟨_, _, _, _, rfl⟩ := (asmBright_eq_command_iff ops i).mp h
    rfl
  · exact hplain rfl h
  · exact hplain rfl h
  · obtain ⟨_, _, _, _, _, hx, hy, rfl⟩ := (asmClrpx_eq_command_iff ops i).mp h
    exact wellFormed_setpx_of_parseCoord 0#3 hx hy
  · exact absurd h (asmWord_ne_command ops i)

theorem wellFormed_of_assembleLine {line : List Char} {i : Instr} (h : assembleLine line = .command i) :
    i.wellFormed = true := by
  unfold assembleLine asmTokens at h
  split at h
  · cases h
  · exact wellFormed_of_asmCommand h

/-- Settles O8: the assembler checks the coordinates' ranges, and a well-formed command's word decodes to it. -/
theorem assembledCommandsDecode : Obligations.AssembledCommandsDecode := by
  unfold Obligations.AssembledCommandsDecode
  intro line i h
  have hwf := wellFormed_of_assembleLine h
  exact ⟨hwf, congrArg AsmResult.word h, decodeOfEncode i hwf⟩

end Sys2Proof.Machine
end

section
/-! How the assembler cuts a line into a mnemonic and operands (R64): blanks, commas and the comment. -/

namespace Sys2Proof.Machine

/-- A mnemonic or an operand that is plain text: not empty, with no comma, no semicolon and no blank in it. -/
def PlainToken (t : List Char) : Prop := t ≠ [] ∧ ∀ ch ∈ t, ch ≠ ',' ∧ ch ≠ ';' ∧ isBlank ch = false

/-- What follows the mnemonic: nothing, or one space and the operands between commas. -/
def operandText (ops : List (List Char)) : List Char := if ops = [] then [] else ' ' :: [','].intercalate ops

/-! ## Blanks -/

theorem trimBlanks_eq_self {cs : List Char} (hne : cs ≠ []) (hhead : isBlank (cs.head hne) = false)
    (hlast : isBlank (cs.getLast hne) = false) : trimBlanks cs = cs := by
  have hfront : cs.dropWhile isBlank = cs := by
    rw [List.dropWhile_eq_self_iff]
    intro _
    rwa [← List.head_eq_getElem hne, Bool.not_eq_true]
  have hback : cs.rdropWhile isBlank = cs := by
    rw [List.rdropWhile_eq_self_iff]
    intro _
    rwa [Bool.not_eq_true]
  rw [trimBlanks, hfront]
  exact hback

theorem trimBlanks_of_forall {cs : List Char} (hne : cs ≠ []) (h : ∀ ch ∈ cs, isBlank ch = false) :
    trimBlanks cs = cs :=
  trimBlanks_eq_self hne (h _ (List.head_mem hne)) (h _ (List.getLast_mem hne))

theorem trimBlanks_space_cons (cs : List Char) : trimBlanks (' ' :: cs) = trimBlanks cs := rfl

/-! ## Commas -/

theorem splitCommas_ne_nil (cs : List Char) : splitCommas cs ≠ [] := by
  cases cs with
  | nil => simp [splitCommas]
  | cons c cs =>
    unfold splitCommas
    split
    · simp
    · split <;> simp

theorem splitCommas_comma_cons (cs : List Char) : splitCommas (',' :: cs) = [] :: splitCommas cs := by
  rw [splitCommas]
  cases hs : splitCommas cs with
  | nil => exact absurd hs (splitCommas_ne_nil cs)
  | cons p ps => simp

/-- A character that is no comma belongs to the first piece. -/
theorem splitCommas_cons_of_ne {ch : Char} {cs p : List Char} {ps : List (List Char)} (h : ch ≠ ',')
    (hs : splitCommas cs = p :: ps) : splitCommas (ch :: cs) = (ch :: p) :: ps := by
  simp [splitCommas, hs, h]

/-- Text without a comma belongs to the first piece. -/
theorem splitCommas_append {t cs p : List Char} {ps : List (List Char)} (h : ∀ ch ∈ t, ch ≠ ',')
    (hs : splitCommas cs = p :: ps) : splitCommas (t ++ cs) = (t ++ p) :: ps := by
  induction t with
  | nil => exact hs
  | cons ch t ih =>
    obtain ⟨hch, ht⟩ := List.forall_mem_cons.mp h
    exact splitCommas_cons_of_ne hch (ih ht)

/-- Pieces without commas, joined by commas, are cut apart again. -/
theorem splitCommas_intercalate {t : List Char} {ts : List (List Char)} (h : ∀ u ∈ t :: ts, ∀ ch ∈ u, ch ≠ ',') :
    splitCommas ([','].intercalate (t :: ts)) = t :: ts := by
  induction ts generalizing t with
  | nil =>
    obtain ⟨ht, _⟩ := List.forall_mem_cons.mp h
    simpa using splitCommas_append (cs := []) ht rfl
  | cons u us ih =>
    obtain ⟨ht, hus⟩ := List.forall_mem_cons.mp h
    rw [List.intercalate_cons_cons, List.append_assoc, List.singleton_append]
    have hcut := (splitCommas_comma_cons _).trans (congrArg (List.cons []) (ih hus))
    simpa using splitCommas_append ht hcut

/-! ## A line of plain tokens -/

theorem forall_mem_intercalate {P : Char → Prop} {ops : List (List Char)} (hcomma : P ',')
    (h : ∀ t ∈ ops, ∀ ch ∈ t, P ch) : ∀ ch ∈ [','].intercalate ops, P ch := by
  match ops with
  | [] => simp
  | [t] => simpa using h
  | t :: u :: us =>
    obtain ⟨ht, hus⟩ := List.forall_mem_cons.mp h
    have hrest := forall_mem_intercalate hcomma hus
    simp only [List.intercalate_cons_cons, List.mem_append, List.mem_singleton]
    rintro ch ((hch | rfl) | hch)
    · exact ht ch hch
    · exact hcomma
    · exact hrest ch hch

theorem intercalate_ne_nil {t : List Char} {ts : List (List Char)} (ht : PlainToken t) :
    [','].intercalate (t :: ts) ≠ [] := by
  cases ts with
  | nil => simpa using ht.1
  | cons u us => simp [List.intercalate_cons_cons]

theorem isBlank_of_mem_intercalate {ops : List (List Char)} (h : ∀ t ∈ ops, PlainToken t) :
    ∀ ch ∈ [','].intercalate ops, isBlank ch = false :=
  forall_mem_intercalate (by decide) fun t ht ch hch => ((h t ht).2 ch hch).2.2

/-- The operands of plain text are the tokens themselves. -/
theorem operandsOf_operandText {ops : List (List Char)} (h : ∀ t ∈ ops, PlainToken t) :
    operandsOf (operandText ops) = ops := by
  cases ops with
  | nil => rfl
  | cons t ts =>
    have ht : PlainToken t := h t (List.mem_cons_self ..)
    have hne := intercalate_ne_nil (ts := ts) ht
    have hcut := splitCommas_intercalate fun u hu ch hch => ((h u hu).2 ch hch).1
    have htrim : ∀ u ∈ t :: ts, trimBlanks u = u :=
      fun u hu => trimBlanks_of_forall (h u hu).1 fun ch hch => ((h u hu).2 ch hch).2.2
    have htrimText := trimBlanks_of_forall hne (isBlank_of_mem_intercalate h)
    rw [operandText, if_neg (List.cons_ne_nil t ts), operandsOf, trimBlanks_space_cons, htrimText,
      if_neg (by simpa using hne), splitCommas_cons_of_ne (by decide) hcut, List.map_cons, trimBlanks_space_cons]
    exact (List.map_congr_left (g := id) htrim).trans (List.map_id _)

/-- The mnemonic ends at the first blank, and the operands are what follows it. -/
theorem asmTokens_operandText {m : List Char} {ops : List (List Char)} (hm : PlainToken m)
    (hops : ∀ t ∈ ops, PlainToken t) : asmTokens (m ++ operandText ops) = asmCommand m ops := by
  have hplain : ∀ ch ∈ m, (!isBlank ch) = true := fun ch hch => by simp [(hm.2 ch hch).2.2]
  have htake : (operandText ops).takeWhile (fun c => !isBlank c) = [] := by
    unfold operandText
    split <;> rfl
  have hdrop : (operandText ops).dropWhile (fun c => !isBlank c) = operandText ops := by
    unfold operandText
    split <;> rfl
  rw [asmTokens, if_neg (by simp [hm.1]), List.takeWhile_append_of_pos hplain, List.dropWhile_append_of_pos hplain,
    htake, hdrop, operandsOf_operandText hops, List.append_nil]

theorem trimBlanks_line {m : List Char} {ops : List (List Char)} (hm : PlainToken m)
    (hops : ∀ t ∈ ops, PlainToken t) : trimBlanks (m ++ operandText ops) = m ++ operandText ops := by
  have hmBlank : ∀ ch ∈ m, isBlank ch = false := fun ch hch => (hm.2 ch hch).2.2
  cases ops with
  | nil => simpa [operandText] using trimBlanks_of_forall hm.1 hmBlank
  | cons t ts =>
    have hne := intercalate_ne_nil (ts := ts) (hops t (List.mem_cons_self ..))
    refine trimBlanks_eq_self (by simp [hm.1]) ?_ ?_
    · rw [List.head_append_of_ne_nil hm.1]
      exact hmBlank _ (List.head_mem hm.1)
    · simp only [operandText, if_neg (List.cons_ne_nil t ts)]
      rw [List.getLast_append_of_ne_nil _ (List.cons_ne_nil _ _), List.getLast_cons hne]
      exact isBlank_of_mem_intercalate hops _ (List.getLast_mem hne)

/-- No semicolon, which would start the comment, stands in a line of plain tokens. -/
theorem not_semicolon_of_mem_line {m : List Char} {ops : List (List Char)} (hm : PlainToken m)
    (hops : ∀ t ∈ ops, PlainToken t) :
    ∀ ch ∈ m ++ operandText ops, (!(ch == ';')) = true := by
  have hinter : ∀ ch ∈ [','].intercalate ops, ch ≠ ';' :=
    forall_mem_intercalate (by decide) fun t ht ch hch => ((hops t ht).2 ch hch).2.1
  intro ch hch
  suffices ch ≠ ';' by simpa using this
  rcases List.mem_append.mp hch with hch | hch
  · exact (hm.2 ch hch).2.1
  · unfold operandText at hch
    split at hch
    · cases hch
    · rcases List.mem_cons.mp hch with rfl | hch
      · decide
      · exact hinter ch hch

theorem assembleLine_line {m : List Char} {ops : List (List Char)} (hm : PlainToken m)
    (hops : ∀ t ∈ ops, PlainToken t) (comment : List Char) :
    assembleLine (m ++ operandText ops) = asmCommand m ops
      ∧ assembleLine (m ++ operandText ops ++ ';' :: comment) = asmCommand m ops := by
  have hstrip := not_semicolon_of_mem_line hm hops
  have hline : stripComment (m ++ operandText ops) = m ++ operandText ops := List.takeWhile_eq_self_iff.mpr hstrip
  have hcomment : stripComment (m ++ operandText ops ++ ';' :: comment) = m ++ operandText ops :=
    (List.takeWhile_append_of_pos hstrip).trans (List.append_nil _)
  simp only [assembleLine, hline, hcomment, trimBlanks_line hm hops, asmTokens_operandText hm hops, and_self]

/-- Settles O60: the line is cut at its first blank and its commas, and each mnemonic reads its operands' ranges. -/
theorem assemblerReadsEachMnemonic : Obligations.AssemblerReadsEachMnemonic := by
  unfold Obligations.AssemblerReadsEachMnemonic
  refine ⟨fun m ops comment h => ?_, fun a b c i => ⟨?_, ?_, ?_, fun w => ?_, rfl, rfl, rfl, rfl, rfl⟩⟩
  · obtain ⟨hm, hops⟩ := List.forall_mem_cons.mp h
    exact assembleLine_line hm hops comment
  · have hread : asmCommand "setpx".toList [a, b, c] = asmSetpx [a, b, c] := rfl
    rw [hread, asmSetpx_eq_command_iff]
    simp only [parseCoord_eq_ok_iff, parseColor_eq_ok_iff, List.cons.injEq, and_true]
    constructor
    · rintro ⟨_, _, _, x, y, p, ⟨rfl, rfl, rfl⟩, ⟨hx, hx0, hx1⟩, ⟨hy, hy0, hy1⟩, hp, hi⟩
      exact ⟨x, y, p, hx, hx0, hx1, hy, hy0, hy1, hp, hi⟩
    · rintro ⟨x, y, p, hx, hx0, hx1, hy, hy0, hy1, hp, hi⟩
      exact ⟨a, b, c, x, y, p, ⟨rfl, rfl, rfl⟩, ⟨hx, hx0, hx1⟩, ⟨hy, hy0, hy1⟩, hp, hi⟩
  · have hread : asmCommand "clrpx".toList [a, b] = asmClrpx [a, b] := rfl
    rw [hread, asmClrpx_eq_command_iff]
    simp only [parseCoord_eq_ok_iff, List.cons.injEq, and_true]
    constructor
    · rintro ⟨_, _, x, y, ⟨rfl, rfl⟩, ⟨hx, hx0, hx1⟩, ⟨hy, hy0, hy1⟩, hi⟩
      exact ⟨x, y, hx, hx0, hx1, hy, hy0, hy1, hi⟩
    · rintro ⟨x, y, hx, hx0, hx1, hy, hy0, hy1, hi⟩
      exact ⟨a, b, x, y, ⟨rfl, rfl⟩, ⟨hx, hx0, hx1⟩, ⟨hy, hy0, hy1⟩, hi⟩
  · have hread : asmCommand "bright".toList [a] = asmBright [a] := rfl
    rw [hread, asmBright_eq_command_iff]
    simp [parseLevel_eq_ok_iff]
  · have hread : asmCommand ".word64".toList [a] = asmWord [a] := rfl
    rw [hread, asmWord_eq_raw_iff, parseWord_eq_ok_iff]

end Sys2Proof.Machine
end

section
/-! The shift of a sub-row (R91, R96, R108): three engine steps to each column. -/

namespace Sys2Proof.Machine

/-- A `SHIFT_DATA` step drives the two pixels of its column, the clock as it is. -/
theorem engineRun_one_of_shiftData {s : State} (hp : s.phase = .shiftData) : engineRun 1 s = engineShiftData s := by
  rw [engineRun_succ, engineRun_zero, engineStep_of_shiftData hp]

/-- The step after it raises the clock. -/
theorem engineRun_two_of_shiftData {s : State} (hp : s.phase = .shiftData) :
    engineRun 2 s = { engineShiftData s with clkR := true, phase := .clkLo } := by
  rw [engineRun_succ_last, engineRun_one_of_shiftData hp, engineStep_of_clkHi rfl, engineClkHi]

/-- The third step lowers the clock and goes to the next column, or to the latch. -/
theorem engineRun_three_of_shiftData {s : State} (hp : s.phase = .shiftData) :
    engineRun 3 s =
      { engineShiftData s with
        clkR := false
        col := if s.col + 1 < s.cfg.ncols then s.col + 1 else s.col
        phase := if s.col + 1 < s.cfg.ncols then .shiftData else .latHi } := by
  rw [engineRun_succ_last, engineRun_two_of_shiftData hp, engineStep_of_clkLo rfl, engineClkLo_fields]
  rfl

/-- `t` is at the `SHIFT_DATA` step of column `k` in the shift that `s` is in. -/
structure AtColumn (s : State) (k : Nat) (t : State) : Prop where
  phase : t.phase = .shiftData
  col : t.col = k
  clkR : t.clkR = false
  row : t.row = s.row
  cfg : t.cfg = s.cfg
  mem : t.mem = s.mem
  frontSel : t.frontSel = s.frontSel

theorem AtColumn.next {s t : State} {k : Nat} (h : AtColumn s k t) (hk : k + 1 < s.cfg.ncols) :
    AtColumn s (k + 1) (engineRun 3 t) := by
  obtain ⟨hp, rfl, _, hrow, hcfg, hmem, hfront⟩ := h
  have hnext : t.col + 1 < t.cfg.ncols := hcfg ▸ hk
  rw [engineRun_three_of_shiftData hp]
  exact ⟨if_pos hnext, if_pos hnext, rfl, hrow, hcfg, hmem, hfront⟩

/-- Column `k` comes three steps for each column before it. -/
theorem atColumn_engineRun {s : State} (h : AtColumn s 0 s) {k : Nat} (hk : k < s.cfg.ncols) :
    AtColumn s k (engineRun (3 * k) s) := by
  induction k with
  | zero => exact h
  | succ k ih =>
    rw [Nat.mul_succ, engineRun_add]
    exact (ih (by omega)).next hk

/-- A `SHIFT_DATA` step fetches the two pixels of its column from the front buffer. -/
theorem AtColumn.colors {s t : State} {k : Nat} (h : AtColumn s k t) :
    (engineShiftData t).colorUp =
        fbRead s.cfg s.mem s.frontSel (shiftAddr s.cfg s.row.toNat k).yu (shiftAddr s.cfg s.row.toNat k).fx
      ∧ (engineShiftData t).colorLo =
        fbRead s.cfg s.mem s.frontSel (shiftAddr s.cfg s.row.toNat k).yl (shiftAddr s.cfg s.row.toNat k).fx := by
  simp [engineShiftData, State.fetchAddr, h.row, h.cfg, h.mem, h.frontSel, h.col]

/-- After the last column comes the latch. -/
theorem AtColumn.phase_three {s t : State} {k : Nat} (h : AtColumn s k t) :
    (engineRun 3 t).phase = if k + 1 < s.cfg.ncols then .shiftData else .latHi := by
  rw [engineRun_three_of_shiftData h.phase]
  simp only [h.col, h.cfg]

/-- Settles O46: the columns one by one, each with the two pixels fetched for it, and the latch after the last. -/
theorem subRowShiftsEveryColumn : Obligations.SubRowShiftsEveryColumn := by
  unfold Obligations.SubRowShiftsEveryColumn
  intro s hrun hp hcol
  have hstart : AtColumn s 0 s := ⟨hp, hcol, hrun.clkR_eq_false (by simp [hp]), rfl, rfl, rfl, rfl⟩
  refine ⟨?_, ?_⟩
  · rintro k _ _ hk rfl rfl
    have hat := atColumn_engineRun hstart hk
    have hone := (engineRun_add (3 * k) 1 s).trans (engineRun_one_of_shiftData hat.phase)
    have htwo := (engineRun_add (3 * k) 2 s).trans (engineRun_two_of_shiftData hat.phase)
    have hthree := (engineRun_add (3 * k) 3 s).trans (engineRun_three_of_shiftData hat.phase)
    have hphase := hat.phase_three
    rw [← engineRun_add, hthree] at hphase
    obtain ⟨hup, hlo⟩ := hat.colors
    rw [hone, htwo, hthree, ← hup, ← hlo]
    exact ⟨rfl, hat.clkR, rfl, rfl, rfl, rfl, rfl, rfl, rfl, rfl, hphase⟩
  · have hpos : 0 < s.cfg.ncols := Nat.zero_lt_of_lt hrun.col_lt
    have hlast := (atColumn_engineRun hstart (Nat.sub_lt hpos Nat.one_pos)).phase_three
    rw [← engineRun_add, if_neg (by omega)] at hlast
    rwa [show 3 * s.cfg.ncols = 3 * (s.cfg.ncols - 1) + 3 by omega]

end Sys2Proof.Machine
end

section
/-! The least time of a sub-row and of a frame (R170). -/

namespace Sys2Proof.Machine

/-- The least time from a phase to the end of its sub-row: `T_SETTLE` while `SETTLE` is to come, and `T_VISIBLE`. -/
def subRowMinTime (c : Config) : Phase → Nat
  | .disable => c.tSettle + c.tVisible
  | .frameSync => c.tSettle + c.tVisible
  | .settle => c.tSettle + c.tVisible
  | .rowsel => c.tVisible
  | .shiftData => c.tVisible
  | .clkHi => c.tVisible
  | .clkLo => c.tVisible
  | .latHi => c.tVisible
  | .latLo => c.tVisible
  | .enable => c.tVisible
  | .hold => c.tVisible
  | .cfgHalt => 0

theorem subRowMinTime_engineStep {s : State} (hhold : s.phase ≠ .hold) :
    stepMinTime s.cfg s.phase + subRowMinTime s.cfg (engineStep s).phase = subRowMinTime s.cfg s.phase := by
  rw [engineStep_phase, State.nextPhase]
  cases hp : s.phase with
  | hold => exact absurd hp hhold
  | disable => by_cases h0 : s.row = 0#3 <;> simp [h0, stepMinTime, subRowMinTime]
  | clkLo => by_cases hnext : s.col + 1 < s.cfg.ncols <;> simp [hnext, stepMinTime, subRowMinTime]
  | _ => simp [stepMinTime, subRowMinTime]

/-- The steps to the end of a sub-row take at least the time of its delays that are still to come. -/
theorem engineMinTime_subRow {s : State} (hv : s.cfg.valid = true) (h : SeqInv s) :
    engineMinTime s.subRowStepsLeft s = subRowMinTime s.cfg s.phase := by
  generalize hn : s.subRowStepsLeft = n
  induction n generalizing s with
  | zero =>
    by_cases hp : s.phase = .hold
    · simp [subRowStepsLeft_of_hold hp] at hn
    · simp [subRowStepsLeft_engineStep h hp] at hn
  | succ n ih =>
    rw [engineMinTime]
    by_cases hp : s.phase = .hold
    · obtain rfl : n = 0 := by simpa [subRowStepsLeft_of_hold hp] using hn.symm
      simp [hp, engineMinTime, stepMinTime, subRowMinTime]
    · have hleft := subRowStepsLeft_engineStep h hp
      rw [ih (by simpa using hv) (seqInv_engineStep hv h) (by omega), engineStep_cfg, subRowMinTime_engineStep hp]

/-- The sub-row of a `DISABLE` step and the `m` sub-rows after it up to the last one, each with its two delays. -/
theorem engineMinTime_subRows (m : Nat) {s : State} (hv : s.cfg.valid = true) (h : SeqInv s) (hp : s.phase = .disable)
    (hm : s.row.toNat + m + 1 = s.cfg.scanRows) :
    engineMinTime (s.subRowStepsLeft + m * (7 + 3 * s.cfg.ncols)) s = (m + 1) * (s.cfg.tSettle + s.cfg.tVisible) := by
  induction m generalizing s with
  | zero => simp [engineMinTime_subRow hv h, hp, subRowMinTime]
  | succ m ih =>
    obtain ⟨hphase, hrow, _⟩ := engineRun_subRow hv h
    have hnext := State.nextRow_toNat hv h.row_lt
    rw [if_neg (by omega), ← hrow] at hnext
    have h0 : (engineRun s.subRowStepsLeft s).row ≠ 0#3 := by
      intro h0
      simp [h0] at hnext
    have hrest := ih (s := engineRun s.subRowStepsLeft s) (by simpa using hv) (seqInv_engineRun _ hv h) hphase
      (by rw [engineRun_cfg]; omega)
    rw [subRowStepsLeft_of_disable hphase, if_neg h0, engineRun_cfg, Nat.add_comm, ← Nat.succ_mul] at hrest
    rw [engineMinTime_add, hrest, engineMinTime_subRow hv h, hp, subRowMinTime, Nat.succ_mul (m + 1), Nat.add_comm]

/-- Settles O50: a frame is all its sub-rows, from sub-row 0 on. -/
theorem frameLastsItsDelays : Obligations.FrameLastsItsDelays := by
  unfold Obligations.FrameLastsItsDelays
  intro s hrun hp h0
  obtain ⟨hpos, _⟩ := Config.scanRows_of_valid hrun.cfg_valid
  obtain ⟨m, hm⟩ := Nat.exists_eq_add_of_le' hpos
  have hframe := engineMinTime_subRows m hrun.cfg_valid hrun.toSeqInv hp (by simp [h0, hm])
  rw [subRowStepsLeft_of_disable hp, if_pos h0] at hframe
  rw [hm, ← hframe, Nat.succ_mul]
  congr 1
  omega

end Sys2Proof.Machine
end

section
/-! Where the serializer fetches (R97, R99, R110), and the mapping's inverse (R76). -/

namespace Sys2Proof.Machine

/-! ## The serializer's addresses -/

/-- The sub-row's row in half `b` of two times `n` rows (R97). -/
def halfRow (n row b : Nat) : Nat := if b = 0 then row + n else row

theorem halfRow_lt {n row : Nat} (b : Nat) (hrow : row < n) : halfRow n row b < 2 * n := by
  unfold halfRow
  split <;> omega

/-- The row gives the half back, and in it the sub-row. -/
theorem halfRow_inj {n row b row' b' : Nat} (hrow : row < n) (hb : b < 2) (hrow' : row' < n) (hb' : b' < 2)
    (h : halfRow n row' b' = halfRow n row b) : row' = row ∧ b' = b := by
  unfold halfRow at h
  split at h <;> split at h <;> omega

/-- Column `u` of half `b` of column group `q` fetches column `u` of panel `q`, with the upper row of half `b`. -/
theorem shiftAddr_of_group {c : Config} {b u : Nat} (row q : Nat) (hb : b < 2) (hu : u < c.panelWidth) :
    shiftAddr c row ((q * 2 + b) * c.panelWidth + u) =
      { fx := q * c.panelWidth + u
        yu := halfRow c.scanRows row b
        yl := halfRow c.scanRows row b + 2 * c.scanRows } := by
  obtain ⟨hdiv, hmod⟩ := group_col_div_mod (q * 2 + b) hu
  obtain ⟨hq, hb'⟩ := group_col_div_mod q hb
  rw [shiftAddr, upperRow, hdiv, hmod, hq, hb', halfRow]

/-- Every column step is one column of one half of one column group. -/
theorem column_eq_group {c : Config} {col : Nat} (hw : 1 ≤ c.panelWidth) (hcol : col < c.ncols) :
    ∃ q b u, q < c.nPanels ∧ b < 2 ∧ u < c.panelWidth ∧ col = (q * 2 + b) * c.panelWidth + u := by
  have hgroup : col / c.panelWidth < c.nPanels * 2 := Nat.div_lt_of_lt_mul (by rwa [← Nat.mul_assoc])
  refine ⟨col / c.panelWidth / 2, col / c.panelWidth % 2, col % c.panelWidth, by omega, by omega, Nat.mod_lt _ hw, ?_⟩
  rw [Nat.div_add_mod', Nat.div_add_mod']

/-- Settles O44: the column is in the group of a panel, and the two rows are in the lower and the upper half. -/
theorem fetchesStayInTheBuffer : Obligations.FetchesStayInTheBuffer := by
  unfold Obligations.FetchesStayInTheBuffer
  intro c row col hv hrow hcol
  obtain ⟨hw, _⟩ := (Config.valid_iff c).mp hv
  obtain ⟨_, _, hheight⟩ := Config.scanRows_of_valid hv
  obtain ⟨q, b, u, hq, hb, hu, rfl⟩ := column_eq_group hw hcol
  have hx : q * c.panelWidth + u < c.phyWidth := group_col_lt hq hu
  have hy := halfRow_lt b hrow
  rw [shiftAddr_of_group row q hb hu, inPhysical_iff, inPhysical_iff, Config.phyHeight, hheight]
  exact ⟨⟨hx, by simp only; omega⟩, hx, by simp only; omega⟩

/-- The sub-row's row in half `b` of the upper or the lower lane. -/
def laneRow (n row b : Nat) (lower : Bool) : Nat := halfRow n row b + if lower then 2 * n else 0

/-- The row of either lane of a column step is that lane's row. -/
theorem shiftAddr_row_of_group {c : Config} {b u : Nat} (row q : Nat) (lower : Bool) (hb : b < 2)
    (hu : u < c.panelWidth) :
    (if lower then (shiftAddr c row ((q * 2 + b) * c.panelWidth + u)).yl
      else (shiftAddr c row ((q * 2 + b) * c.panelWidth + u)).yu) = laneRow c.scanRows row b lower := by
  rw [shiftAddr_of_group row q hb hu]
  cases lower <;> rfl

/-- Every row of the panel is in one of its four quarters, so it is a row of one lane in one half. -/
theorem exists_laneRow {n y : Nat} (hy : y < 4 * n) :
    ∃ row b lower, row < n ∧ b < 2 ∧ laneRow n row b lower = y := by
  by_cases h1 : y < n
  · exact ⟨y, 1, false, by omega, by omega, by simp [laneRow, halfRow]⟩
  by_cases h2 : y < 2 * n
  · exact ⟨y - n, 0, false, by omega, by omega, by simp [laneRow, halfRow]; omega⟩
  by_cases h3 : y < 3 * n
  · exact ⟨y - 2 * n, 1, true, by omega, by omega, by simp [laneRow, halfRow]; omega⟩
  · exact ⟨y - 3 * n, 0, true, by omega, by omega, by simp [laneRow, halfRow]; omega⟩

/-- The row gives the lane back, and in it the half and the sub-row. -/
theorem laneRow_inj {n row b row' b' : Nat} {lower lower' : Bool} (hrow : row < n) (hb : b < 2) (hrow' : row' < n)
    (hb' : b' < 2) (h : laneRow n row' b' lower' = laneRow n row b lower) :
    row' = row ∧ b' = b ∧ lower' = lower := by
  have hlt := halfRow_lt b hrow
  have hlt' := halfRow_lt b' hrow'
  have hlower : lower' = lower := by
    cases lower <;> cases lower' <;> simp [laneRow] at h ⊢ <;> omega
  subst hlower
  obtain ⟨hr, hhalf⟩ := halfRow_inj hrow hb hrow' hb' (Nat.add_right_cancel h)
  exact ⟨hr, hhalf, rfl⟩

/-- Settles O45: the panel and its column give the column group and `u`, the row gives the sub-row, the half and the
lane. -/
theorem frameFetchesEveryCellOnce : Obligations.FrameFetchesEveryCellOnce := by
  unfold Obligations.FrameFetchesEveryCellOnce
  intro c y x hv hy hx
  obtain ⟨hw, _⟩ := (Config.valid_iff c).mp hv
  obtain ⟨_, _, hheight⟩ := Config.scanRows_of_valid hv
  obtain ⟨row, b, lower, hrow, hb, rfl⟩ := exists_laneRow (n := c.scanRows) (y := y) (hheight ▸ hy)
  have hq : x / c.panelWidth < c.nPanels := Nat.div_lt_of_lt_mul hx
  have hu : x % c.panelWidth < c.panelWidth := Nat.mod_lt _ hw
  refine ⟨row, (x / c.panelWidth * 2 + b) * c.panelWidth + x % c.panelWidth, lower, hrow, ?_, ?_,
    shiftAddr_row_of_group row _ lower hb hu, fun row' col' lower' hrow' hcol' hfx hfy => ?_⟩
  · have hgroup : x / c.panelWidth * 2 + b < c.nPanels * 2 := by omega
    rw [Config.ncols, Nat.mul_assoc]
    exact group_col_lt hgroup hu
  · rw [shiftAddr_of_group row _ hb hu]
    exact Nat.div_add_mod' x c.panelWidth
  · obtain ⟨q, b', u, _, hb', hu', rfl⟩ := column_eq_group hw hcol'
    rw [shiftAddr_row_of_group row' q lower' hb' hu'] at hfy
    obtain ⟨rfl, rfl, rfl⟩ := laneRow_inj hrow hb hrow' hb' hfy
    rw [shiftAddr_of_group row' q hb' hu'] at hfx
    obtain ⟨hdiv, hmod⟩ := group_col_div_mod q hu'
    obtain rfl : q * c.panelWidth + u = x := hfx
    rw [hdiv, hmod]
    exact ⟨rfl, rfl, rfl⟩

/-! ## The mapping and its inverse -/

/-- Column `u` of chain panel `r * N_HOR + k` is column `u` of the panel in grid column `k` and grid row `r` (R76). -/
theorem unmapPos_of_panel {c : Config} {k u : Nat} (r v : Nat) (hk : k < c.nHor) (hu : u < c.panelWidth) :
    unmapPos c { x := (r * c.nHor + k) * c.panelWidth + u, y := v } =
      { x := k * c.panelWidth + u, y := r * c.panelHeight + v } := by
  obtain ⟨hpanel, hu'⟩ := group_col_div_mod (r * c.nHor + k) hu
  obtain ⟨hr, hk'⟩ := group_col_div_mod r hk
  simp only [unmapPos, hpanel, hu', hr, hk']

/-- Settles O11: a position inside is a pixel of a panel, and the panel's place in the grid and in the chain give each
other. -/
theorem mapIsBijection : Obligations.MapIsBijection := by
  unfold Obligations.MapIsBijection
  intro c hv
  obtain ⟨hw, hh, hhor, _⟩ := (Config.valid_iff c).mp hv
  refine ⟨fun x y hx hy => ⟨mapPos_inPhysical hx hy, ?_⟩, fun p hp => ?_⟩
  · have hk : x / c.panelWidth < c.nHor := Nat.div_lt_of_lt_mul hx
    rw [mapPos, unmapPos_of_panel _ _ hk (Nat.mod_lt x hw), Nat.div_add_mod', Nat.div_add_mod']
  · obtain ⟨hx, hy⟩ := (inPhysical_iff c p).mp hp
    have hu : p.x % c.panelWidth < c.panelWidth := Nat.mod_lt _ hw
    have hk : p.x / c.panelWidth % c.nHor < c.nHor := Nat.mod_lt _ hhor
    have hpanel : p.x / c.panelWidth < c.nHor * c.nVer := Nat.div_lt_of_lt_mul hx
    have hr : p.x / c.panelWidth / c.nHor < c.nVer := Nat.div_lt_of_lt_mul hpanel
    refine ⟨group_col_lt hk hu, group_col_lt hr hy, ?_⟩
    rw [unmapPos, mapPos_of_panel _ _ hu hy, Nat.div_add_mod', Nat.div_add_mod']

end Sys2Proof.Machine
end

section
/-! The duty as a function of the level (R127). -/

namespace Sys2Proof.Machine

theorem duty_mono (c : Config) {a b : BitVec 8} (h : a.toNat ≤ b.toNat) : duty c a ≤ duty c b :=
  Nat.div_le_div_right (Nat.mul_le_mul_left _ h)

@[simp] theorem duty_zero (c : Config) : duty c 0#8 = 0 := by simp [duty]

/-- From `MAX_DUTY` 255 on, a higher level has a higher duty. -/
theorem duty_lt {c : Config} {a b : BitVec 8} (hc : 255 ≤ c.maxDuty) (h : a.toNat < b.toNat) : duty c a < duty c b :=
  calc duty c a
    _ < (c.maxDuty * a.toNat + 255) / 255 := by rw [Nat.add_div_right _ (by decide)]; exact Nat.lt_succ_self _
    _ ≤ c.maxDuty * (a.toNat + 1) / 255 := Nat.div_le_div_right (by rw [Nat.mul_succ]; omega)
    _ ≤ duty c b := Nat.div_le_div_right (Nat.mul_le_mul_left _ h)

/-- Below it, levels 0 and 1 have the same duty. -/
theorem duty_one_of_lt {c : Config} (hc : c.maxDuty < 255) : duty c 1#8 = 0 := by
  rw [duty]
  exact Nat.div_eq_of_lt (by simpa using hc)

/-- Settles O57: the floor of a product is monotone, strictly from `MAX_DUTY` 255 on and not below. -/
theorem dutyIsMonotone : Obligations.DutyIsMonotone := by
  unfold Obligations.DutyIsMonotone
  refine fun c => ⟨fun a b => duty_mono c, duty_zero c, Nat.mul_div_cancel _ (by decide),
    ⟨fun hinj => ?_, fun hc a b h => ?_⟩, fun hc a => ?_⟩
  · by_contra hlt
    have hsame : (1#8) = 0#8 := hinj _ _ ((duty_one_of_lt (by omega)).trans (duty_zero c).symm)
    exact absurd hsame (by decide)
  · refine BitVec.eq_of_toNat_eq (Nat.le_antisymm (Nat.le_of_not_lt fun hlt => ?_) (Nat.le_of_not_lt fun hlt => ?_))
    · exact absurd h (Nat.ne_of_gt (duty_lt hc hlt))
    · exact absurd h (Nat.ne_of_lt (duty_lt hc hlt))
  · rw [duty, hc, Nat.mul_div_cancel_left _ (by decide)]

end Sys2Proof.Machine
end

section
/-! What a command leaves alone (R34), and that a second execution changes nothing more (R45). -/

namespace Sys2Proof.Machine

/-- A command writes the frame store, `SWAP_PENDING`, `BRIGHT` and `CI` at most. -/
theorem exec_frame {i : Instr} {s t : State} (h : exec i s = .next t) :
    ∃ m pending level, t = { s with mem := m, swapPending := pending, bright := level, ci := s.ci + 1 } := by
  obtain ⟨rfl, _⟩ | ⟨_, _, _, _, _, rfl⟩ | ⟨_, rfl⟩ | ⟨_, rfl⟩ | ⟨_, _, rfl⟩ := exec_cases h <;>
    exact ⟨_, _, _, rfl⟩

/-- No command writes the front buffer. -/
theorem exec_buffer_front {i : Instr} {s t : State} (h : exec i s = .next t) :
    t.mem.buffer s.frontSel = s.mem.buffer s.frontSel := by
  obtain ⟨rfl, _⟩ | ⟨_, _, _, _, _, rfl⟩ | ⟨_, rfl⟩ | ⟨_, rfl⟩ | ⟨_, _, rfl⟩ := exec_cases h
  · rfl
  · exact Memory.buffer_write_not ..
  · exact Memory.buffer_clear_not ..
  · rfl
  · rfl

theorem exec_swapPending_of_ne_swap {i : Instr} {s t : State} (h : exec i s = .next t) (hi : i ≠ .swap) :
    t.swapPending = s.swapPending := by
  obtain ⟨rfl, _⟩ | ⟨_, _, _, _, _, rfl⟩ | ⟨_, rfl⟩ | ⟨hswap, _⟩ | ⟨_, _, rfl⟩ := exec_cases h
  case inr.inr.inr.inl => exact absurd hswap hi
  all_goals rfl

theorem exec_bright_of_ne_bright {i : Instr} {s t : State} (h : exec i s = .next t) (hi : ∀ l, i ≠ .bright l) :
    t.bright = s.bright := by
  obtain ⟨rfl, _⟩ | ⟨_, _, _, _, _, rfl⟩ | ⟨_, rfl⟩ | ⟨_, rfl⟩ | ⟨l, hbright, _⟩ := exec_cases h
  case inr.inr.inr.inr => exact absurd hbright (hi l)
  all_goals rfl

theorem exec_mem_of_ne_draw {i : Instr} {s t : State} (h : exec i s = .next t) (hset : ∀ x y c, i ≠ .setpx x y c)
    (hclrb : i ≠ .clrb) : t.mem = s.mem := by
  obtain ⟨rfl, _⟩ | ⟨x, y, c, hi, _⟩ | ⟨hi, _⟩ | ⟨_, rfl⟩ | ⟨_, _, rfl⟩ := exec_cases h
  · rfl
  · exact absurd hi (hset x y c)
  · exact absurd hi hclrb
  · rfl
  · rfl

/-- Settles O17: `exec_frame` for the registers, and one lemma for each of the three that only some commands write. -/
theorem commandsLeaveTheEngineAlone : Obligations.CommandsLeaveTheEngineAlone := by
  unfold Obligations.CommandsLeaveTheEngineAlone
  intro i s
  obtain ⟨t, ht⟩ := exec_total i s
  have hfront := exec_buffer_front ht
  have hswap := exec_swapPending_of_ne_swap ht
  have hbright := exec_bright_of_ne_bright ht
  have hmem := exec_mem_of_ne_draw ht
  obtain ⟨m, pending, level, rfl⟩ := exec_frame ht
  exact ⟨_, ht, rfl, rfl, rfl, rfl, rfl, rfl, rfl, rfl, rfl, rfl, rfl, hfront, rfl, rfl, rfl, rfl, rfl, rfl, rfl, rfl,
    hswap, hbright, hmem⟩

/-- A command other than `SWAP`, executed again, only advances `CI` (R45). -/
theorem exec_again {i : Instr} {s t : State} (h : exec i s = .next t) (hi : i ≠ .swap) :
    exec i t = .next t.advance := by
  obtain ⟨rfl, rfl | ⟨_, _, c, rfl, hout⟩⟩ | ⟨x, y, c, rfl, hin, rfl⟩ | ⟨rfl, rfl⟩ | ⟨hswap, _⟩ | ⟨_, rfl, rfl⟩ :=
    exec_cases h
  · rfl
  · exact execSetpx_outside c hout
  · have hagain := execSetpx_inside (s := (s.setMem (s.mem.write s.backSel (mapPos s.cfg x.toNat y.toNat).y
      (mapPos s.cfg x.toNat y.toNat).x c)).advance) c hin
    simp only [State.backSel_eq, State.advance_cfg, State.advance_frontSel, State.advance_mem, State.setMem_cfg,
      State.setMem_frontSel, State.setMem_mem, Memory.write_write] at hagain ⊢
    exact hagain
  · have hclear : (s.mem.clear s.backSel).clear s.backSel = s.mem.clear s.backSel := Memory.clear_clear ..
    exact congrArg (fun m => Host.Outcome.next (s.setMem m).advance.advance) hclear
  · exact absurd hswap hi
  · rfl

/-- Settles O16: `exec_again` for a command; an illegal word finds `ILL_CMD` set, and keeps `BAD_CMD`. -/
theorem commandsButSwapAreIdempotent : Obligations.CommandsButSwapAreIdempotent := by
  unfold Obligations.CommandsButSwapAreIdempotent
  refine ⟨fun i s hi => ?_, fun _ _ => rfl⟩
  obtain ⟨t, ht⟩ := exec_total i s
  exact ⟨t, ht, exec_again ht hi⟩

end Sys2Proof.Machine
end

section
/-! What a step keeps outside reset (R34, R50, R167): the engine's registers when the engine does not move, the front
buffer, and the configuration with the host program. -/

namespace Sys2Proof.Machine

/-- The registers that only the engine writes are the same (R34). -/
structure EngineKept (s t : State) : Prop where
  cfg : t.cfg = s.cfg
  phase : t.phase = s.phase
  row : t.row = s.row
  oeEn : t.oeEn = s.oeEn
  colorUp : t.colorUp = s.colorUp
  colorLo : t.colorLo = s.colorLo
  addr : t.addr = s.addr
  clkR : t.clkR = s.clkR
  latR : t.latR = s.latR
  frontSel : t.frontSel = s.frontSel

theorem engineKept_exec {i : Instr} {s t : State} (h : exec i s = .next t) : EngineKept s t := by
  obtain ⟨_, _, _, rfl⟩ := exec_frame h
  exact ⟨rfl, rfl, rfl, rfl, rfl, rfl, rfl, rfl, rfl, rfl⟩

/-- Outside reset a step is the engine's, or it leaves the engine's registers alone. -/
theorem step_engine_or_kept {s t : State} (hreset : s.resetDue = false) (hstep : step s = .next t) :
    t = engineStep s.popTurn ∨ EngineKept s t := by
  obtain ⟨hdue, _⟩ | ⟨_, _, rfl⟩ | ⟨_, _, _, _, rfl⟩ | ⟨_, _, _, _, w, _, ⟨_, _, hexec⟩ | ⟨_, rfl⟩⟩ := step_cases hstep
  · cases hdue.symm.trans hreset
  · exact .inr ⟨rfl, rfl, rfl, rfl, rfl, rfl, rfl, rfl, rfl, rfl⟩
  · exact .inl rfl
  · obtain ⟨hcfg, hp, hrow, hoe, hup, hlo, haddr, hclk, hlat, hfront⟩ := engineKept_exec hexec
    exact .inr ⟨hcfg, hp, hrow, hoe, hup, hlo, haddr, hclk, hlat, hfront⟩
  · exact .inr ⟨rfl, rfl, rfl, rfl, rfl, rfl, rfl, rfl, rfl, rfl⟩

/-- Settles O36: the engine never writes the frame store, and the host writes the back buffer only. -/
theorem frontBufferIsNeverWritten : Obligations.FrontBufferIsNeverWritten := by
  unfold Obligations.FrontBufferIsNeverWritten
  intro s t hreset hstep
  obtain ⟨hdue, _⟩ | ⟨_, _, rfl⟩ | ⟨_, _, _, _, rfl⟩ | ⟨_, _, _, _, w, _, ⟨_, _, hexec⟩ | ⟨_, rfl⟩⟩ := step_cases hstep
  · cases hdue.symm.trans hreset
  · rfl
  · rw [engineStep_mem, State.popTurn_mem]
  · exact exec_buffer_front (s := s.popTurn) hexec
  · rfl

/-- Only a `FRAME_SYNC` step with a swap pending writes `FRONT_SEL` (R19, R93). -/
theorem engineStep_frontSel {s : State} (h : ¬(s.phase = .frameSync ∧ s.swapPending = true)) :
    (engineStep s).frontSel = s.frontSel := by
  unfold engineStep
  cases hp : s.phase with
  | frameSync => simp [engineFrameSync_fields, show s.swapPending ≠ true from fun hs => h ⟨hp, hs⟩]
  | clkLo => simp only [engineClkLo_fields]
  | _ => rfl

/-- Settles O35: only the engine writes `FRONT_SEL`, in the step of `engineFrameSync_of_swapPending`. -/
theorem rolesChangeOnlyAtFrameSync : Obligations.RolesChangeOnlyAtFrameSync := by
  unfold Obligations.RolesChangeOnlyAtFrameSync
  intro s t hreset hstep hchanged
  obtain rfl | hkept := step_engine_or_kept hreset hstep
  · obtain ⟨hp, hpending⟩ : s.phase = .frameSync ∧ s.swapPending = true := by
      by_contra h
      exact hchanged (engineStep_frontSel (s := s.popTurn) h)
    rw [engineStep_of_frameSync (s := s.popTurn) hp, engineFrameSync_of_swapPending (s := s.popTurn) hpending]
    exact ⟨hp, hpending, rfl, rfl, rfl⟩
  · exact absurd hkept.frontSel hchanged

/-- Every command keeps the frame store's canonical form. -/
theorem exec_mem_wf {i : Instr} {s t : State} (h : exec i s = .next t) (hwf : s.mem.wf = true) : t.mem.wf = true := by
  obtain ⟨rfl, _⟩ | ⟨_, _, _, _, _, rfl⟩ | ⟨_, rfl⟩ | ⟨_, rfl⟩ | ⟨_, _, rfl⟩ := exec_cases h
  · exact hwf
  · exact Memory.wf_write _ _ _ _ hwf
  · exact Memory.wf_clear _ hwf
  · exact hwf
  · exact hwf

/-- Every command keeps the listed cells inside the buffers: a pixel of the grid is inside its buffer (R74). -/
theorem exec_mem_bounded {i : Instr} {s t : State} (h : exec i s = .next t) (hb : s.mem.bounded s.cfg = true) :
    t.mem.bounded s.cfg = true := by
  obtain ⟨rfl, _⟩ | ⟨_, _, _, _, hin, rfl⟩ | ⟨_, rfl⟩ | ⟨_, rfl⟩ | ⟨_, _, rfl⟩ := exec_cases h
  · exact hb
  · exact Memory.bounded_write _ _ (mapPos_inPhysical_of_grid hin) hb
  · exact Memory.bounded_clear _ hb
  · exact hb
  · exact hb

/-- Settles O33: a reset blanks the frame store, and of the other steps only a command writes it. -/
theorem everyStepKeepsTheFrameStoreCanonical : Obligations.EveryStepKeepsTheFrameStoreCanonical := by
  unfold Obligations.EveryStepKeepsTheFrameStoreCanonical
  intro s t hwf hstep
  obtain ⟨_, rfl⟩ | ⟨_, _, rfl⟩ | ⟨_, _, _, _, rfl⟩ | ⟨_, _, _, _, w, _, ⟨_, _, hexec⟩ | ⟨_, rfl⟩⟩ := step_cases hstep
  · exact Memory.wf_blank
  · exact hwf
  · rwa [engineStep_mem]
  · exact exec_mem_wf hexec hwf
  · exact hwf

theorem State.mover_of_reset {s : State} (h : s.resetDue = true) : s.mover = some .reset := if_pos h

theorem State.mover_of_release {s : State} (hreset : s.resetDue = false) (h : s.rst = true) :
    s.mover = some .release := by simp [State.mover, hreset, h]

/-- Settles O34: no step of either agent writes an input, and each step but a release takes the first turn. -/
theorem noStepChangesTheConfiguration : Obligations.NoStepChangesTheConfiguration := by
  unfold Obligations.NoStepChangesTheConfiguration
  intro s t hstep
  obtain ⟨hdue, rfl⟩ | ⟨hdue, hrst, rfl⟩ | ⟨_, _, hm, _, rfl⟩ | ⟨_, _, hm, _, w, _, ⟨_, _, hexec⟩ | ⟨_, rfl⟩⟩ :=
    step_cases hstep
  · exact ⟨rfl, rfl, by simp [State.mover_of_reset hdue], fun _ => rfl⟩
  · exact ⟨rfl, rfl, fun _ => rfl, fun hne => absurd (State.mover_of_release hdue hrst) hne⟩
  · exact ⟨engineStep_cfg _, engineStep_program _, by simp [hm], fun _ => engineStep_turns _⟩
  · obtain ⟨_, _, _, rfl⟩ := exec_frame hexec
    exact ⟨rfl, rfl, by simp [hm], fun _ => rfl⟩
  · exact ⟨rfl, rfl, by simp [hm], fun _ => rfl⟩

theorem step_cfg {s t : State} (hstep : step s = .next t) : t.cfg = s.cfg := (noStepChangesTheConfiguration s t hstep).1

/-- Settles O26: `exec_frame` has no write of `INT_FAULT`, and no other step has one but a reset's clear. -/
theorem internalFaultIsNeverRaised : Obligations.InternalFaultIsNeverRaised := by
  unfold Obligations.InternalFaultIsNeverRaised
  refine ⟨fun s x y c => ?_, fun s t hstep hint => ?_⟩
  · obtain ⟨t, ht⟩ := exec_total (.setpx x y c) s
    obtain ⟨_, _, _, rfl⟩ := exec_frame ht
    exact ⟨_, ht, rfl⟩
  · obtain ⟨_, rfl⟩ | ⟨_, _, rfl⟩ | ⟨_, _, _, _, rfl⟩ | ⟨_, _, _, _, w, _, ⟨_, _, hexec⟩ | ⟨_, rfl⟩⟩ := step_cases hstep
    · rfl
    · exact hint
    · exact (engineStep_intFault _).trans hint
    · obtain ⟨_, _, _, rfl⟩ := exec_frame hexec
      exact hint
    · exact hint

end Sys2Proof.Machine
end

section
/-! The invariant of the machine (R35): it holds after reset, and every step keeps it. -/

namespace Sys2Proof.Machine

/-- The reset state of a valid configuration meets the invariant of a run, whatever the inputs. -/
theorem runInv_resetOf {c : Config} (hv : c.valid = true) (p : List Word64) (ts : List Turn) (r : Bool) :
    RunInv { State.resetOf c with program := p, turns := ts, rst := r } := by
  obtain ⟨hrows, _⟩ := Config.scanRows_of_valid hv
  have hcols := Config.ncols_of_valid hv
  have hp := State.resetOf_phase_of_valid hv
  refine ⟨⟨?_, hrows, Nat.zero_lt_of_lt hcols, nofun, ?_, ?_, ?_, ?_, ?_⟩, hv, State.resetOf_cfgFault_of_valid hv, rfl,
    ?_, rfl, rfl, Nat.zero_le _⟩
  · simp [hp]
  · simp [hp]
  · exact iff_of_false nofun (by simp [hp])
  · exact iff_of_false nofun (by simp [hp])
  · simp [hp]
  · simp [hp, Phase.addressed]
  · simp [State.resetOf]

/-- The reset state of any configuration meets the machine's invariant, whatever the inputs. -/
theorem machineInv_resetOf (c : Config) (p : List Word64) (ts : List Turn) (r : Bool) :
    MachineInv { State.resetOf c with program := p, turns := ts, rst := r } := by
  refine ⟨fun _ => rfl, ?_⟩
  split
  · next hv => exact runInv_resetOf hv p ts r
  · rfl

/-- Settles O31: the run's invariant under a valid configuration, and the reset state itself under another. -/
theorem resetMeetsTheInvariant : Obligations.ResetMeetsTheInvariant :=
  ⟨machineInv_resetOf, machineInv_resetOf Config.build [] [] false⟩

/-- The invariant of a run speaks of the host's registers in its last clauses only, and not of the turns and `rst`. -/
theorem RunInv.of_host_fields {s : State} (h : RunInv s) {m : Memory} {pending ill rst : Bool} {level : BitVec 8}
    {bad : Word64} {n : Nat} {ts : List Turn} (hbad : ill = true ↔ bad ≠ 0#64) (hwf : m.wf = true)
    (hbounded : m.bounded s.cfg = true) (hn : n ≤ s.program.length) :
    RunInv { s with
      mem := m, swapPending := pending, bright := level, illCmd := ill, badCmd := bad, ci := n, turns := ts,
      rst := rst } :=
  ⟨⟨h.not_halted, h.row_lt, h.col_lt, h.oe_phase, h.hold_oe, h.clk_phase, h.lat_phase, h.sync_row, h.addr_row⟩,
    h.cfg_valid, h.no_cfg_fault, h.no_int_fault, hbad, hwf, hbounded, hn⟩

theorem runInv_popTurn {s : State} (h : RunInv s) : RunInv s.popTurn :=
  h.of_host_fields h.bad_cmd h.mem_wf h.mem_bounded h.ci_le

theorem runInv_leaveReset {s : State} (h : RunInv s) : RunInv s.leaveReset :=
  h.of_host_fields h.bad_cmd h.mem_wf h.mem_bounded h.ci_le

theorem runInv_enterReset {s : State} (h : RunInv s) : RunInv s.enterReset :=
  runInv_resetOf h.cfg_valid s.program s.turns.tail true

theorem runInv_engineStep {s : State} (h : RunInv s) : RunInv (engineStep s) where
  toSeqInv := seqInv_engineStep h.cfg_valid h.toSeqInv
  cfg_valid := by simpa using h.cfg_valid
  no_cfg_fault := by simpa using h.no_cfg_fault
  no_int_fault := by simpa using h.no_int_fault
  bad_cmd := by simpa using h.bad_cmd
  mem_wf := by simpa using h.mem_wf
  mem_bounded := by simpa using h.mem_bounded
  ci_le := by simpa using h.ci_le

/-- A command of an offered word keeps the invariant. -/
theorem runInv_exec {i : Instr} {s t : State} (h : RunInv s) (hci : s.ci < s.program.length)
    (hexec : exec i s = .next t) : RunInv t := by
  have hwf := exec_mem_wf hexec h.mem_wf
  have hbounded := exec_mem_bounded hexec h.mem_bounded
  obtain ⟨m, _, _, rfl⟩ := exec_frame hexec
  exact h.of_host_fields h.bad_cmd hwf hbounded hci

/-- An illegal word is not 0, which is the word of `NOP`. -/
theorem ne_zero_of_decode_illegal {w : Word64} {r : IllegalReason} (h : decode w = .illegal r) : w ≠ 0#64 := by
  intro h0
  cases h.symm.trans ((decode_eq_nop_iff w).mpr h0)

/-- The acceptance of an offered illegal word keeps the invariant: `BAD_CMD` takes a word that is not 0. -/
theorem runInv_acceptIllegal {w : Word64} {r : IllegalReason} {s : State} (h : RunInv s)
    (hci : s.ci < s.program.length) (hw : decode w = .illegal r) : RunInv (acceptIllegal w s) := by
  have hbad : (if s.illCmd then s.badCmd else w) ≠ 0#64 := by
    split
    · next hill => exact h.bad_cmd.mp hill
    · exact ne_zero_of_decode_illegal hw
  exact h.of_host_fields (iff_of_true rfl hbad) h.mem_wf h.mem_bounded hci

theorem State.ci_lt_of_offeredWord {s : State} {w : Word64} (h : s.offeredWord = some w) : s.ci < s.program.length :=
  (List.getElem?_eq_some_iff.mp h).1

/-- Every step keeps the invariant of a run. -/
theorem runInv_step {s t : State} (h : RunInv s) (hstep : step s = .next t) : RunInv t := by
  obtain ⟨_, rfl⟩ | ⟨_, _, rfl⟩ | ⟨_, _, _, _, rfl⟩ | ⟨_, _, _, _, w, hw, ⟨_, _, hexec⟩ | ⟨⟨r, hr⟩, rfl⟩⟩ :=
    step_cases hstep
  · exact runInv_enterReset h
  · exact runInv_leaveReset h
  · exact runInv_engineStep (runInv_popTurn h)
  · exact runInv_exec (runInv_popTurn h) (State.ci_lt_of_offeredWord hw) hexec
  · exact runInv_acceptIllegal (runInv_popTurn h) (State.ci_lt_of_offeredWord hw) hr

/-- A step that leaves `rst` asserted is one of `rst`, which gives the reset values. -/
theorem eq_afterReset_of_step {s t : State} (hstep : step s = .next t) (hrst : t.rst = true) : t = t.afterReset := by
  obtain ⟨_, rfl⟩ | ⟨_, _, rfl⟩ | ⟨_, hl, _, _, rfl⟩ | ⟨_, hl, _, _, w, _, ⟨_, _, hexec⟩ | ⟨_, rfl⟩⟩ := step_cases hstep
  · rfl
  · cases hrst
  · cases hl.symm.trans ((engineStep_rst s.popTurn).symm.trans hrst)
  · obtain ⟨_, _, _, rfl⟩ := exec_frame hexec
    cases hl.symm.trans hrst
  · cases hl.symm.trans hrst

/-- Under an invalid configuration the reset state is halted (R138, R157). -/
theorem phase_of_not_valid {s : State} (hv : s.cfg.valid = false) (h : s = s.afterReset) : s.phase = .cfgHalt :=
  (congrArg State.phase h).trans (State.resetOf_phase_of_not_valid hv)

/-- The halted reset state has no step but one of `rst`, which comes back to it (R138). -/
theorem eq_afterReset_of_step_of_not_valid {s t : State} (hv : s.cfg.valid = false) (h : s = s.afterReset)
    (hstep : step s = .next t) : t = t.afterReset := by
  have hphase := phase_of_not_valid hv h
  have hfault : s.cfgFault = true := (congrArg State.cfgFault h).trans ((State.resetOf_cfgFault_iff _).mpr hv)
  obtain ⟨_, rfl⟩ | ⟨_, _, rfl⟩ | ⟨_, _, _, henabled, _⟩ | ⟨_, _, _, hready, _⟩ := step_cases hstep
  · rfl
  · exact congrArg State.leaveReset h
  · simp [State.engineEnabled, hphase] at henabled
  · simp [State.cmdReady, hfault] at hready

/-- Settles O32: `runInv_step` under a valid configuration, and the halted reset state under another. -/
theorem everyStepKeepsTheInvariant : Obligations.EveryStepKeepsTheInvariant := by
  unfold Obligations.EveryStepKeepsTheInvariant
  rintro s t ⟨_, hinv⟩ hstep
  refine ⟨eq_afterReset_of_step hstep, ?_⟩
  rw [step_cfg hstep]
  cases hv : s.cfg.valid with
  | true =>
    rw [hv] at hinv
    exact runInv_step hinv hstep
  | false =>
    rw [hv] at hinv
    exact eq_afterReset_of_step_of_not_valid hv hinv hstep

end Sys2Proof.Machine
end

section
/-! The order of the port changes (R108, R109): what each engine step writes of the clock, the latch, the colours and
`OE_EN`. -/

namespace Sys2Proof.Machine

/-- `CLK_HI` raises the clock, `CLK_LO` lowers it, and no other phase writes it (R100, R101). -/
theorem engineStep_clkR (s : State) :
    (engineStep s).clkR = if s.phase = .clkHi then true else if s.phase = .clkLo then false else s.clkR := by
  unfold engineStep
  cases hp : s.phase with
  | frameSync => simp [engineFrameSync_fields]
  | clkLo => simp [engineClkLo_fields]
  | _ => rfl

/-- `LAT_HI` raises the latch, `LAT_LO` lowers it, and no other phase writes it (R102, R103). -/
theorem engineStep_latR (s : State) :
    (engineStep s).latR = if s.phase = .latHi then true else if s.phase = .latLo then false else s.latR := by
  unfold engineStep
  cases hp : s.phase with
  | frameSync => simp [engineFrameSync_fields]
  | clkLo => simp [engineClkLo_fields]
  | _ => rfl

/-- `ENABLE` sets `OE_EN`, `DISABLE` clears it, and no other phase writes it (R92, R104). -/
theorem engineStep_oeEn (s : State) :
    (engineStep s).oeEn = if s.phase = .enable then true else if s.phase = .disable then false else s.oeEn := by
  unfold engineStep
  cases hp : s.phase with
  | frameSync => simp [engineFrameSync_fields]
  | clkLo => simp [engineClkLo_fields]
  | _ => rfl

/-- Only a `SHIFT_DATA` step writes the colours (R96). -/
theorem engineStep_colors_of_ne_shiftData {s : State} (h : s.phase ≠ .shiftData) :
    (engineStep s).colorUp = s.colorUp ∧ (engineStep s).colorLo = s.colorLo := by
  unfold engineStep
  cases hp : s.phase with
  | frameSync => simp [engineFrameSync_fields]
  | clkLo => simp [engineClkLo_fields]
  | shiftData => exact absurd hp h
  | _ => exact ⟨rfl, rfl⟩

/-- A signal that a step raises is low before it, so the step is the one that raises it. -/
theorem eq_of_rise {p q : Prop} [Decidable p] [Decidable q] {b c : Bool}
    (h : c = if p then true else if q then false else b) (hlow : b = false) (hhigh : c = true) : p := by
  by_contra hp
  rw [if_neg hp, hlow, ite_self] at h
  cases h.symm.trans hhigh

/-- Blanking covers the phases but `HOLD`, `DISABLE` and `CFG_HALT` (R109). -/
theorem Phase.blanked_iff (p : Phase) : p.blanked = true ↔ p ≠ .hold ∧ p ≠ .disable ∧ p ≠ .cfgHalt := by
  cases p <;> decide

theorem RunInv.oeEn_eq_false_of_blanked {s : State} (h : RunInv s) (hp : s.phase.blanked = true) : s.oeEn = false := by
  obtain ⟨hhold, hdisable, _⟩ := s.phase.blanked_iff.mp hp
  exact h.oeEn_eq_false hhold hdisable

/-- Outside `ENABLE` no step of either agent sets `OE_EN`. -/
theorem oeEn_of_step_of_ne_enable {s t : State} (hreset : s.resetDue = false) (hstep : step s = .next t)
    (hp : s.phase ≠ .enable) (hoe : s.oeEn = false) : t.oeEn = false := by
  obtain rfl | hkept := step_engine_or_kept hreset hstep
  · rw [engineStep_oeEn, State.popTurn_phase, if_neg hp, State.popTurn_oeEn, hoe, ite_self]
  · exact hkept.oeEn.trans hoe

/-- A step out of `DISABLE` is the engine's, which blanks the panel (R92). -/
theorem oeEn_of_step_of_disable {s t : State} (hreset : s.resetDue = false) (hstep : step s = .next t)
    (hp : s.phase = .disable) (hleft : t.phase ≠ .disable) : t.oeEn = false := by
  obtain rfl | hkept := step_engine_or_kept hreset hstep
  · simp [engineStep_oeEn, hp]
  · exact absurd (hkept.phase.trans hp) hleft

/-- Settles O51: the duty port is 0 while `OE_EN` is, and only `ENABLE` sets it. -/
theorem blankingWinsOverBrightness : Obligations.BlankingWinsOverBrightness := by
  unfold Obligations.BlankingWinsOverBrightness
  intro s t hrun hreset hstep
  refine ⟨fun hp => ?_, fun hp hne => ?_, fun hp hleft => ?_⟩
  · exact State.ports_oeDuty_of_disabled (hrun.oeEn_eq_false_of_blanked hp)
  · exact State.ports_oeDuty_of_disabled
      (oeEn_of_step_of_ne_enable hreset hstep hne (hrun.oeEn_eq_false_of_blanked hp))
  · exact State.ports_oeDuty_of_disabled (oeEn_of_step_of_disable hreset hstep hp hleft)

/-- The address changes only in `ROWSEL`, with the panel blanked, the clock and the latch low. -/
theorem RunInv.addr_change {s : State} (h : RunInv s) (hchange : (engineStep s).addr ≠ s.addr) :
    s.phase = .rowsel ∧ s.ports.oeDuty = 0 ∧ s.clkR = false ∧ s.latR = false := by
  have hp : s.phase = .rowsel := of_not_not (mt engineStep_addr_of_ne_rowsel hchange)
  exact ⟨hp, State.ports_oeDuty_of_disabled (h.oeEn_eq_false (by simp [hp]) (by simp [hp])),
    h.clkR_eq_false (by simp [hp]), h.latR_eq_false (by simp [hp])⟩

/-- The colours change only in `SHIFT_DATA`, with the clock and the latch low before and after, the address as it is. -/
theorem RunInv.color_change {s : State} (h : RunInv s)
    (hchange : (engineStep s).colorUp ≠ s.colorUp ∨ (engineStep s).colorLo ≠ s.colorLo) :
    s.phase = .shiftData ∧ s.clkR = false ∧ (engineStep s).clkR = false ∧ s.latR = false
      ∧ (engineStep s).latR = false ∧ (engineStep s).addr = s.addr := by
  have hp : s.phase = .shiftData := by
    by_contra hp
    obtain ⟨hup, hlo⟩ := engineStep_colors_of_ne_shiftData hp
    exact hchange.elim (absurd hup) (absurd hlo)
  have hclk := h.clkR_eq_false (by simp [hp])
  have hlat := h.latR_eq_false (by simp [hp])
  exact ⟨hp, hclk, by simp [engineStep_clkR, hp, hclk], hlat, by simp [engineStep_latR, hp, hlat],
    engineStep_addr_of_ne_rowsel (by simp [hp])⟩

/-- The clock rises only in `CLK_HI`, with the colours unchanged and the sub-row's address on the lines. -/
theorem RunInv.clk_rise {s : State} (h : RunInv s) (hlow : s.clkR = false) (hhigh : (engineStep s).clkR = true) :
    s.phase = .clkHi ∧ (engineStep s).colorUp = s.colorUp ∧ (engineStep s).colorLo = s.colorLo
      ∧ (engineStep s).addr = s.row := by
  have hp : s.phase = .clkHi := eq_of_rise (engineStep_clkR s) hlow hhigh
  obtain ⟨hup, hlo⟩ := engineStep_colors_of_ne_shiftData (s := s) (by simp [hp])
  exact ⟨hp, hup, hlo,
    (engineStep_addr_of_ne_rowsel (by simp [hp])).trans (h.addr_row (by simp [hp, Phase.addressed]))⟩

/-- The latch rises only in `LAT_HI`, with the clock low and the colours unchanged. -/
theorem RunInv.lat_rise {s : State} (h : RunInv s) (hlow : s.latR = false) (hhigh : (engineStep s).latR = true) :
    s.phase = .latHi ∧ s.clkR = false ∧ (engineStep s).clkR = false
      ∧ (engineStep s).colorUp = s.colorUp ∧ (engineStep s).colorLo = s.colorLo := by
  have hp : s.phase = .latHi := eq_of_rise (engineStep_latR s) hlow hhigh
  have hclk := h.clkR_eq_false (by simp [hp])
  exact ⟨hp, hclk, by simp [engineStep_clkR, hp, hclk], engineStep_colors_of_ne_shiftData (by simp [hp])⟩

/-- The display is enabled only in `ENABLE`, with the latch and the clock low. -/
theorem RunInv.oe_rise {s : State} (h : RunInv s) (hlow : s.oeEn = false) (hhigh : (engineStep s).oeEn = true) :
    s.phase = .enable ∧ s.latR = false ∧ (engineStep s).latR = false ∧ s.clkR = false := by
  have hp : s.phase = .enable := eq_of_rise (engineStep_oeEn s) hlow hhigh
  have hlat := h.latR_eq_false (by simp [hp])
  exact ⟨hp, hlat, by simp [engineStep_latR, hp, hlat], h.clkR_eq_false (by simp [hp])⟩

/-- Settles O52: a change is an engine step's, whose phase gives the other lines by the run's invariant. -/
theorem portChangesFollowTheOrder : Obligations.PortChangesFollowTheOrder := by
  unfold Obligations.PortChangesFollowTheOrder
  intro s t hrun hreset hstep
  obtain rfl | hkept := step_engine_or_kept hreset hstep
  · have hinv := runInv_popTurn hrun
    exact ⟨hinv.addr_change, hinv.color_change, fun ⟨hlow, hhigh⟩ => hinv.clk_rise hlow hhigh,
      fun ⟨hlow, hhigh⟩ => hinv.lat_rise hlow hhigh, fun ⟨hlow, hhigh⟩ => hinv.oe_rise hlow hhigh⟩
  · refine ⟨absurd hkept.addr, fun hchange => hchange.elim (absurd hkept.colorUp) (absurd hkept.colorLo),
      fun ⟨hlow, hhigh⟩ => ?_, fun ⟨hlow, hhigh⟩ => ?_, fun ⟨hlow, hhigh⟩ => ?_⟩
    · cases hhigh.symm.trans (hkept.clkR.trans hlow)
    · cases hhigh.symm.trans (hkept.latR.trans hlow)
    · cases hhigh.symm.trans (hkept.oeEn.trans hlow)

end Sys2Proof.Machine
end

section
/-! Whose step comes next (R10, R11), and the step of `rst` (R156). -/

namespace Sys2Proof.Machine

theorem State.engineEnabled_iff (s : State) : s.engineEnabled = true ↔ s.phase ≠ .cfgHalt := by
  simp [State.engineEnabled]

theorem firstEnabled_eq_none_iff (a b : Mover × Bool) : firstEnabled a b = none ↔ a.2 = false ∧ b.2 = false := by
  unfold firstEnabled
  cases a.2 <;> cases b.2 <;> simp

theorem State.agentMover_eq_none_iff (s : State) :
    s.agentMover = none ↔ s.engineEnabled = false ∧ s.hostEnabled = false := by
  unfold State.agentMover
  split <;> simp only [firstEnabled_eq_none_iff, and_comm]

/-- Nobody moves only when no reset is due or asserted and neither agent has a step. -/
theorem State.mover_eq_none_iff (s : State) :
    s.mover = none ↔
      s.resetDue = false ∧ s.rst = false ∧ s.engineEnabled = false ∧ s.hostEnabled = false := by
  unfold State.mover
  cases s.resetDue <;> cases s.rst <;> simp [State.agentMover_eq_none_iff]

/-- With `rst` released and no turn of `rst` next, an agent moves. -/
theorem State.mover_eq_agentMover {s : State} (hreset : s.resetDue = false) (hrst : s.rst = false) :
    s.mover = s.agentMover := by simp [State.mover, hreset, hrst]

theorem State.rst_of_hostEnabled {s : State} (h : s.hostEnabled = true) : s.rst = false :=
  (s.cmdReady_iff.mp (s.hostEnabled_iff.mp h).2).2.2

/-- Settles O22: by what `mover` asks, in its order. -/
theorem turnsGiveEveryInterleaving : Obligations.TurnsGiveEveryInterleaving := by
  unfold Obligations.TurnsGiveEveryInterleaving
  refine fun s => ⟨fun hm => ?_, fun hm => ?_, ?_, step_of_none, fun hrst hp ts => ?_, fun hhost ts => ?_, fun _ => rfl⟩
  · obtain ⟨h, _⟩ | ⟨h, _⟩ | ⟨_, henabled, _, hrst⟩ | ⟨h, _⟩ := State.mover_cases hm
    · cases h
    · cases h
    · exact ⟨s.engineEnabled_iff.mp henabled, hrst⟩
    · cases h
  · obtain ⟨h, _⟩ | ⟨h, _⟩ | ⟨h, _⟩ | ⟨_, henabled, _⟩ := State.mover_cases hm
    · cases h
    · cases h
    · cases h
    · exact henabled
  · simp [State.mover_eq_none_iff, State.engineEnabled]
  · rw [State.mover_eq_agentMover (s := { s with turns := .engine :: ts }) rfl hrst]
    exact if_pos (s.engineEnabled_iff.mpr hp)
  · rw [State.mover_eq_agentMover (s := { s with turns := .host :: ts }) rfl (State.rst_of_hostEnabled hhost)]
    exact if_pos hhost

/-- Settles O27: `CFG_HALT` gives the engine no step and `CFG_FAULT` the host none, so only `rst` moves. -/
theorem invalidConfigurationIsStuck : Obligations.InvalidConfigurationIsStuck := by
  unfold Obligations.InvalidConfigurationIsStuck
  rintro c p ts r hv s rfl
  have hphase := State.resetOf_phase_of_not_valid hv
  have hfault := (State.resetOf_cfgFault_iff c).mpr hv
  have hready : ({ State.resetOf c with program := p, turns := ts, rst := r } : State).cmdReady = false := by
    simp [State.cmdReady, hfault]
  refine ⟨hphase, hfault, hready, ?_, ?_, ?_, fun hreset hrst => ?_, step_of_release, step_of_reset⟩
  · simp [State.readStatus, BitVec.extractLsb'_or, extractLsb'_fieldAt_same, extractLsb'_fieldAt_disjoint, hfault]
  · rw [State.readStatus_phase, hphase]
    rfl
  · simp [State.ports, State.oeDuty, State.resetOf]
  · refine step_of_none ((State.mover_eq_none_iff _).mpr ⟨hreset, hrst, ?_, ?_⟩)
    · simp [State.engineEnabled, hphase]
    · simp [State.hostEnabled, hready]

/-- Settles O30: the step of `rst`, the mover while it is asserted, and the invariant of a machine in reset. -/
theorem resetInputRestoresEverything : Obligations.ResetInputRestoresEverything := by
  unfold Obligations.ResetInputRestoresEverything
  refine fun s => ⟨step_of_reset, fun hrst => ?_, fun hrst hreset => step_of_release hreset hrst, fun hinv hrst => ?_⟩
  · have hready : s.cmdReady = false := by simp [State.cmdReady, hrst]
    have hmover : s.mover = some .reset ∨ s.mover = some .release := by
      cases hdue : s.resetDue with
      | true => exact .inl (State.mover_of_reset hdue)
      | false => exact .inr (State.mover_of_release hdue hrst)
    exact ⟨hready, by simp [State.hostEnabled, hready], by rcases hmover with h | h <;> simp [h],
      by rcases hmover with h | h <;> simp [h]⟩
  · have hreset := hinv.1 hrst
    have hstatus : s.readStatus = s.afterReset.readStatus := congrArg State.readStatus hreset
    have hports : s.ports = s.afterReset.ports := congrArg State.ports hreset
    refine ⟨?_, hstatus, congrArg State.readBadCmd hreset, hports⟩
    rw [← hrst]
    exact hreset

end Sys2Proof.Machine
end

section
/-! The step of a decoded word (R63), and the host interface that places one (log 5). -/

namespace Sys2Proof.Machine

theorem step_of_host_command {s : State} {w : Word64} {i : Instr} (hmover : s.mover = some .host)
    (hoffered : s.offeredWord = some w) (hi : decode w = .command i) : step s = exec i s.popTurn := by
  obtain ⟨v, hv, hstep⟩ := step_of_host_acceptWord hmover
  obtain rfl : v = w := Option.some.inj (hv.symm.trans hoffered)
  exact hstep.trans (acceptWord_of_command _ hi)

/-- Settles O19: the host step is the acceptance of its word. -/
theorem stepRunsTheDecodedCommand : Obligations.StepRunsTheDecodedCommand :=
  fun _ _ _ hmover hoffered hi => step_of_host_command hmover hoffered hi

/-- The placed word is the program's word `k`. -/
theorem getElem?_placeWord (p : List Word64) (k : Nat) (w : Word64) : (placeWord p k w)[k]? = some w := by
  have hlen : (p.take k ++ List.replicate (k - p.length) 0#64).length = k := by simp; omega
  rw [placeWord, List.getElem?_append_right (by omega), hlen, Nat.sub_self, List.getElem?_cons_zero]

theorem State.offeredWord_withFetchWord (s : State) (nbits w : Nat) :
    (s.withFetchWord nbits w).offeredWord = some (tableWord nbits w) := getElem?_placeWord ..

/-- After a word is placed the port is ready and the host's turn comes. -/
theorem State.mover_withFetchWord (s : State) (nbits w : Nat) : (s.withFetchWord nbits w).mover = some .host := by
  have henabled : (s.withFetchWord nbits w).hostEnabled = true :=
    (State.hostEnabled_iff _).mpr ⟨⟨_, s.offeredWord_withFetchWord nbits w⟩, rfl⟩
  have hturns : (s.withFetchWord nbits w).turns = [] ∨ ∃ ts, (s.withFetchWord nbits w).turns = .host :: ts := by
    show hostFirst s.turns = [] ∨ ∃ ts, hostFirst s.turns = .host :: ts
    unfold hostFirst
    split <;> simp
  have hreset : (s.withFetchWord nbits w).resetDue = false := by
    rcases hturns with h | ⟨ts, h⟩ <;> simp [State.resetDue, h]
  rw [State.mover_eq_agentMover hreset rfl, State.agentMover]
  rcases hturns with h | ⟨ts, h⟩ <;> simp [h, firstEnabled, henabled]

theorem decode_tableWord_of_decodeTableWord {w : Nat} {i : Instr} (h : decodeTableWord 64 w = some i) :
    decode (tableWord 64 w) = .command i := by
  rw [decodeTableWord, if_pos (by decide)] at h
  cases hd : decode (tableWord 64 w) with
  | command j => simpa [hd] using h
  | illegal r => simp [hd] at h

/-- Settles O20: the placed word is the host's next one, and its turn comes. -/
theorem placedWordRunsNext : Obligations.PlacedWordRunsNext := fun s w _ h =>
  step_of_host_command (s.mover_withFetchWord 64 w) (s.offeredWord_withFetchWord 64 w)
    (decode_tableWord_of_decodeTableWord h)

end Sys2Proof.Machine
end

section
/-! An engine step beside a host step (R48 to R51): the engine reads the front buffer only, and of the registers that the
host writes `SWAP_PENDING` only, in `FRAME_SYNC`. -/

namespace Sys2Proof.Machine

/-! ## The engine step after a write of the host -/

/-- The engine fetches from the front buffer only, so it does the same over any back buffer. -/
theorem engineStep_setMem {s : State} {m : Memory} (h : m.buffer s.frontSel = s.mem.buffer s.frontSel) :
    engineStep (s.setMem m) = (engineStep s).setMem m := by
  unfold engineStep State.setMem
  cases hp : s.phase with
  | frameSync => simp only [engineFrameSync_fields]
  | shiftData => simp only [engineShiftData, State.fetchAddr, fbRead_congr h]
  | clkLo => simp only [engineClkLo_fields]
  | cfgHalt => simp only [hp]
  | _ => rfl

/-- The engine reads neither the fault record nor `CI`. -/
theorem engineStep_setIllegal (s : State) (ill : Bool) (bad : Word64) (n : Nat) :
    engineStep { s with illCmd := ill, badCmd := bad, ci := n } =
      { engineStep s with illCmd := ill, badCmd := bad, ci := n } := by
  unfold engineStep
  cases hp : s.phase with
  | frameSync => simp only [engineFrameSync_fields]
  | clkLo => simp only [engineClkLo_fields]
  | cfgHalt => simp only [hp]
  | _ => rfl

/-- The engine reads `SWAP_PENDING` in `FRAME_SYNC` only. -/
theorem engineStep_setSwapPending {s : State} (hp : s.phase ≠ .frameSync) (pending : Bool) :
    engineStep { s with swapPending := pending } = { engineStep s with swapPending := pending } := by
  unfold engineStep
  cases h : s.phase with
  | frameSync => exact absurd h hp
  | clkLo => simp only [engineClkLo_fields]
  | cfgHalt => simp only [h]
  | _ => rfl

theorem engineStep_advance (s : State) : engineStep s.advance = (engineStep s).advance := by
  have h := engineStep_setIllegal s s.illCmd s.badCmd (s.ci + 1)
  rw [← engineStep_illCmd s, ← engineStep_badCmd s, ← engineStep_ci s] at h
  simpa [State.advance] using h

theorem engineStep_acceptIllegal (w : Word64) (s : State) :
    engineStep (acceptIllegal w s) = acceptIllegal w (engineStep s) := by
  have h := engineStep_setIllegal s true (if s.illCmd then s.badCmd else w) (s.ci + 1)
  simpa [acceptIllegal, State.raiseFault, State.advance] using h

/-! ## Either order -/

/-- A command executed before or after an engine step gives the same state, but for `SWAP` against `FRAME_SYNC`. -/
theorem exec_engineStep {i : Instr} {s t : State} (hpending : s.swapPending = false)
    (hswap : s.phase = .frameSync → i ≠ .swap) (h : exec i s = .next t) :
    exec i (engineStep s) = .next (engineStep t) := by
  have hfront : (engineStep s).frontSel = s.frontSel := engineStep_frontSel (by simp [hpending])
  obtain ⟨rfl, rfl | ⟨x, y, c, rfl, hout⟩⟩ | ⟨x, y, c, rfl, hin, rfl⟩ | ⟨rfl, rfl⟩ | ⟨rfl, rfl⟩ | ⟨l, rfl, rfl⟩ :=
    exec_cases h
  · rw [engineStep_advance]
    rfl
  · rw [engineStep_advance]
    exact execSetpx_outside c (by rwa [engineStep_cfg])
  · rw [engineStep_advance, State.backSel_eq, engineStep_setMem (Memory.buffer_write_not ..)]
    have hexec := execSetpx_inside (s := engineStep s) (x := x) (y := y) c (by rwa [engineStep_cfg])
    simp only [State.backSel_eq, hfront, engineStep_cfg, engineStep_mem] at hexec
    exact hexec
  · rw [engineStep_advance, State.backSel_eq, engineStep_setMem (Memory.buffer_clear_not ..), ← engineStep_mem,
      ← hfront]
    rfl
  · rw [engineStep_advance, engineStep_setSwapPending (fun hp => hswap hp rfl) true]
    rfl
  · rw [engineStep_advance, engineStep_setBright s l]
    rfl

/-- The mask of `SWAP` has every bit, so its row holds its match value alone (R61). -/
theorem decode_eq_swap_iff (w : Word64) : decode w = .command .swap ↔ w = 0x0000000000000003#64 := by
  have hmask : Instr.swap.mask = BitVec.allOnes 64 := by decide
  rw [decode_eq_command_iff rfl, inRow_iff_masked, hmask, BitVec.and_allOnes, Instr.matchBits]

theorem State.offeredWord_engineStep (s : State) : (engineStep s).offeredWord = s.offeredWord := by
  simp [State.offeredWord]

theorem hostStep_of_offeredWord {s : State} {w : Word64} (h : s.offeredWord = some w) :
    hostStep s = acceptWord w s := by
  simp [hostStep, h]

/-- Settles O53: the offered word is the same in either order, and so is what accepting it writes. -/
theorem engineAndHostStepsCommute : Obligations.EngineAndHostStepsCommute := by
  unfold Obligations.EngineAndHostStepsCommute
  intro s t henabled hswap hstep
  obtain ⟨⟨w, hw⟩, hready⟩ := s.hostEnabled_iff.mp henabled
  obtain ⟨_, hpending, _⟩ := s.cmdReady_iff.mp hready
  rw [hostStep_of_offeredWord hw] at hstep
  rw [hostStep_of_offeredWord ((State.offeredWord_engineStep s).trans hw)]
  cases hd : decode w with
  | command i =>
    rw [acceptWord_of_command _ hd] at hstep ⊢
    refine exec_engineStep hpending (fun hp hi => ?_) hstep
    exact hswap hp (hw.trans (congrArg some ((decode_eq_swap_iff w).mp (hd.trans (congrArg _ hi)))))
  | illegal r =>
    rw [acceptWord_of_illegal _ hd] at hstep ⊢
    rw [← Host.Outcome.next.inj hstep, engineStep_acceptIllegal]

/-! ## Another back buffer -/

/-- A command does the same over another back buffer, and then the two back buffers may differ still. -/
theorem exec_setMem {i : Instr} {s t : State} {m : Memory} (hm : m.buffer s.frontSel = s.mem.buffer s.frontSel)
    (h : exec i s = .next t) :
    ∃ n : Memory, exec i (s.setMem m) = .next (t.setMem n) ∧ n.buffer s.frontSel = t.mem.buffer s.frontSel := by
  obtain ⟨rfl, rfl | ⟨_, _, c, rfl, hout⟩⟩ | ⟨_, _, c, rfl, hin, rfl⟩ | ⟨rfl, rfl⟩ | ⟨rfl, rfl⟩ | ⟨_, rfl, rfl⟩ :=
    exec_cases h
  · exact ⟨m, rfl, hm⟩
  · exact ⟨m, execSetpx_outside (s := s.setMem m) c hout, hm⟩
  · exact ⟨_, execSetpx_inside (s := s.setMem m) c hin,
      (Memory.buffer_write_not ..).trans (hm.trans (Memory.buffer_write_not ..).symm)⟩
  · exact ⟨_, rfl, (Memory.buffer_clear_not ..).trans (hm.trans (Memory.buffer_clear_not ..).symm)⟩
  · exact ⟨m, rfl, hm⟩
  · exact ⟨m, rfl, hm⟩

/-- A step that keeps the roles does the same over another back buffer. -/
theorem step_setMem {s t : State} {m : Memory} (hm : m.buffer s.frontSel = s.mem.buffer s.frontSel)
    (hstep : step s = .next t) (hroles : t.frontSel = s.frontSel) :
    ∃ n : Memory, step (s.setMem m) = .next (t.setMem n) ∧ n.buffer t.frontSel = t.mem.buffer t.frontSel := by
  obtain ⟨hdue, rfl⟩ | ⟨hdue, hrst, rfl⟩ | ⟨_, _, hmover, _, rfl⟩ | ⟨_, _, hmover, _, w, hw, hhost⟩ := step_cases hstep
  · exact ⟨s.enterReset.mem, step_of_reset (s := s.setMem m) hdue, rfl⟩
  · exact ⟨m, step_of_release (s := s.setMem m) hdue hrst, hm⟩
  · refine ⟨m, ?_, ?_⟩
    · rw [step_of_engine (s := s.setMem m) hmover, ← engineStep_setMem (s := s.popTurn) hm]
      rfl
    · rw [hroles, engineStep_mem]
      exact hm
  · rw [hroles]
    obtain ⟨i, hi, hexec⟩ | ⟨⟨r, hr⟩, rfl⟩ := hhost
    · rw [step_of_host_command (s := s.setMem m) hmover hw hi]
      exact exec_setMem (s := s.popTurn) hm hexec
    · exact ⟨m, step_of_host_illegal (s := s.setMem m) hmover hw hr, hm⟩

/-- Settles O54: neither the ports nor `STATUS` show the frame store. -/
theorem backBufferIsInvisibleUntilTheSwap : Obligations.BackBufferIsInvisibleUntilTheSwap := by
  unfold Obligations.BackBufferIsInvisibleUntilTheSwap
  rintro s t s' ⟨hm, ht⟩ hstep hroles
  obtain ⟨n, hstep', hn⟩ := step_setMem hm hstep hroles
  rw [ht]
  exact ⟨s'.setMem n, hstep', ⟨hn, rfl⟩, rfl, rfl⟩

end Sys2Proof.Machine
end

section
/-! The observation point of a run (R161): every step before it brings it nearer, in the turns left, then the words left,
then the engine steps left. -/

namespace Sys2Proof.Machine

/-! ## A valid run goes on -/

theorem acceptWord_total (w : Word64) (s : State) : ∃ t, acceptWord w s = .next t := by
  cases hd : decode w with
  | command i =>
    rw [acceptWord_of_command s hd]
    exact exec_total i s
  | illegal r => exact ⟨_, acceptWord_of_illegal s hd⟩

/-- In a run the engine has a step at least, so the machine is never stuck. -/
theorem exists_step_of_runInv {s : State} (h : RunInv s) : ∃ t, step s = .next t := by
  cases hm : s.mover with
  | none =>
    obtain ⟨_, _, hengine, _⟩ := s.mover_eq_none_iff.mp hm
    exact absurd (s.engineEnabled_iff.mpr h.not_halted) (Bool.eq_false_iff.mp hengine)
  | some m =>
    obtain ⟨_, hreset⟩ | ⟨_, hreset, hrst⟩ | ⟨rfl, _⟩ | ⟨rfl, _⟩ := State.mover_cases hm
    · exact ⟨_, step_of_reset hreset⟩
    · exact ⟨_, step_of_release hreset hrst⟩
    · exact ⟨_, step_of_engine hm⟩
    · obtain ⟨w, _, hstep⟩ := step_of_host_acceptWord hm
      rw [hstep]
      exact acceptWord_total w _

/-! ## What is left before the observation point -/

theorem State.atObservationPoint_iff (s : State) :
    s.atObservationPoint = true ↔
      s.ci = s.program.length ∧ s.swapPending = false ∧ s.phase = .disable ∧ s.row = 0#3 := by
  simp [State.atObservationPoint, and_assoc]

/-- The steps that the turns and `rst` still take; a reset may start the host program again, so these count first. -/
def State.inputsLeft (s : State) : Nat := 2 * s.turns.length + s.rst.toNat

/-- The words left, each with a swap that it may request, and the swap that is pending. -/
def State.wordsLeft (s : State) : Nat := 2 * (s.program.length - s.ci) + s.swapPending.toNat

/-- The engine steps to the `FRAME_SYNC` that performs a pending swap; with none pending, a count that ends at the start
of a frame. -/
def State.engineStepsLeft (s : State) : Nat :=
  if s.phase = .frameSync ∧ s.swapPending = false then s.cfg.scanRows * (7 + 3 * s.cfg.ncols) + 1
  else s.stepsToFrameSync

/-- What is left of a run before its observation point. -/
def State.observationLeft (s : State) : Nat × Nat × Nat := (s.inputsLeft, s.wordsLeft, s.engineStepsLeft)

/-- An engine step that neither performs a swap nor starts a frame with none pending lowers the engine's count. -/
theorem engineStepsLeft_engineStep {s : State} (h : RunInv s) (hsync : ¬(s.phase = .frameSync ∧ s.swapPending = true))
    (hstart : ¬(s.swapPending = false ∧ s.phase = .disable ∧ s.row = 0#3)) :
    (engineStep s).engineStepsLeft < s.engineStepsLeft := by
  have hnext := engineStep_phase_eq_frameSync_iff s
  by_cases hp : s.phase = .frameSync
  · have hpending : s.swapPending = false := Bool.eq_false_of_not_eq_true fun hs => hsync ⟨hp, hs⟩
    have hleft : (engineStep s).phase ≠ .frameSync := mt hnext.mp (by simp [hp])
    have hlt := stepsToFrameSync_lt_frame (seqInv_engineStep h.cfg_valid h.toSeqInv).row_lt
    rw [engineStep_cfg] at hlt
    rwa [State.engineStepsLeft, if_neg (fun h' => hleft h'.1), State.engineStepsLeft, if_pos ⟨hp, hpending⟩]
  · have hkept : (engineStep s).swapPending = s.swapPending := engineStep_swapPending_of_ne_frameSync hp
    have hnot : ¬((engineStep s).phase = .frameSync ∧ (engineStep s).swapPending = false) :=
      fun ⟨hp', hs'⟩ => hstart ⟨hkept.symm.trans hs', hnext.mp hp'⟩
    rw [State.engineStepsLeft, if_neg hnot, State.engineStepsLeft, if_neg (fun h' => hp h'.1),
      stepsToFrameSync_engineStep h.cfg_valid h.toSeqInv hp]
    exact Nat.lt_succ_self _

/-- With no turn left the host moves whenever it has a step. -/
theorem State.hostEnabled_of_mover_engine {s : State} (hreset : s.resetDue = false) (hrst : s.rst = false)
    (hturns : s.turns = []) (hm : s.mover = some .engine) : s.hostEnabled = false := by
  rw [State.mover_eq_agentMover hreset hrst, State.agentMover, hturns] at hm
  refine Bool.eq_false_of_not_eq_true fun henabled => ?_
  simp [firstEnabled, henabled] at hm

/-- In a run without `rst` a host that has no step has finished its program, or waits for a swap. -/
theorem ci_eq_of_not_hostEnabled {s : State} (h : RunInv s) (hrst : s.rst = false) (hhost : s.hostEnabled = false)
    (hpending : s.swapPending = false) : s.ci = s.program.length := by
  have hready : s.cmdReady = true := s.cmdReady_iff.mpr ⟨h.no_cfg_fault, hpending, hrst⟩
  have hvalid : ¬s.cmdValid = true := fun hv => by simp [State.hostEnabled, hv, hready] at hhost
  have hle := h.ci_le
  rw [State.cmdValid_iff] at hvalid
  omega

/-- A step of an agent takes a turn, when one is left. -/
theorem inputsLeft_lt_of_agent {s t : State} (hs : s.rst = false) (ht : t.rst = false) (hturns : t.turns = s.turns.tail)
    (hne : s.turns ≠ []) : t.inputsLeft < s.inputsLeft := by
  have hpos := List.length_pos_iff.mpr hne
  simp only [State.inputsLeft, hs, ht, hturns, List.length_tail]
  omega

theorem inputsLeft_eq_of_agent {s t : State} (hs : s.rst = false) (ht : t.rst = false) (hturns : t.turns = s.turns.tail)
    (hnil : s.turns = []) : t.inputsLeft = s.inputsLeft := by
  simp [State.inputsLeft, hs, ht, hturns, hnil]

/-- The order in which what is left is counted. -/
def ObservationLess : Nat × Nat × Nat → Nat × Nat × Nat → Prop := Prod.Lex (· < ·) (Prod.Lex (· < ·) (· < ·))

/-- An agent's step is nearer to the observation point when it takes a turn, or else lowers the later counts. -/
theorem observationLess_of_agent {s t : State} (hs : s.rst = false) (ht : t.rst = false)
    (hturns : t.turns = s.turns.tail)
    (h : s.turns = [] →
      t.wordsLeft < s.wordsLeft ∨ (t.wordsLeft = s.wordsLeft ∧ t.engineStepsLeft < s.engineStepsLeft)) :
    ObservationLess t.observationLeft s.observationLeft := by
  by_cases hnil : s.turns = []
  · unfold ObservationLess State.observationLeft
    rw [inputsLeft_eq_of_agent hs ht hturns hnil]
    refine .right _ ?_
    obtain hlt | ⟨heq, hlt⟩ := h hnil
    · exact .left _ _ hlt
    · rw [heq]
      exact .right _ hlt
  · exact .left _ _ (inputsLeft_lt_of_agent hs ht hturns hnil)

/-- With no turn left the engine performs the pending swap, or comes nearer to it or to the start of a frame. -/
theorem left_lt_of_engineStep {s : State} (h : RunInv s) (hrst : s.rst = false) (hhost : s.hostEnabled = false)
    (hat : s.atObservationPoint = false) :
    (engineStep s).wordsLeft < s.wordsLeft
      ∨ ((engineStep s).wordsLeft = s.wordsLeft ∧ (engineStep s).engineStepsLeft < s.engineStepsLeft) := by
  by_cases hsync : s.phase = .frameSync ∧ s.swapPending = true
  · left
    have hdone : (engineStep s).swapPending = false := by
      rw [engineStep_of_frameSync hsync.1, engineFrameSync_of_swapPending hsync.2]
    simp [State.wordsLeft, hdone, hsync.2]
  · right
    have hkept : (engineStep s).swapPending = s.swapPending := by
      by_cases hp : s.phase = .frameSync
      · rw [engineStep_of_frameSync hp, engineFrameSync_fields]
        exact (Bool.eq_false_of_not_eq_true fun hs => hsync ⟨hp, hs⟩).symm
      · exact engineStep_swapPending_of_ne_frameSync hp
    refine ⟨by simp [State.wordsLeft, hkept], engineStepsLeft_engineStep h hsync fun ⟨hpending, hstart⟩ => ?_⟩
    have hci := ci_eq_of_not_hostEnabled h hrst hhost hpending
    exact Bool.eq_false_iff.mp hat (s.atObservationPoint_iff.mpr ⟨hci, hpending, hstart⟩)

/-- A word taken outweighs the swap that it may request. -/
theorem wordsLeft_lt_of_word {s t : State} (hs : s.swapPending = false) (hci : s.ci < s.program.length)
    (ht : t.ci = s.ci + 1) (hprogram : t.program = s.program) : t.wordsLeft < s.wordsLeft := by
  have hle := Bool.toNat_le t.swapPending
  simp only [State.wordsLeft, hs, ht, hprogram, Bool.toNat_false]
  omega

/-- Every step of a run that is not at the observation point brings it nearer. -/
theorem observationLess_of_step {s t : State} (h : RunInv s) (hat : s.atObservationPoint = false)
    (hstep : step s = .next t) : ObservationLess t.observationLeft s.observationLeft := by
  obtain ⟨hdue, rfl⟩ | ⟨_, hrst, rfl⟩ | ⟨hdue, hrst, hm, _, rfl⟩ | ⟨_, hrst, _, hready, w, hw, hhost⟩ :=
    step_cases hstep
  · refine .left _ _ ?_
    have hne : s.turns ≠ [] := fun hnil => by simp [State.resetDue, hnil] at hdue
    have hpos := List.length_pos_iff.mpr hne
    simp only [State.inputsLeft, State.enterReset_turns, State.enterReset_rst, List.length_tail, Bool.toNat_true]
    omega
  · exact .left _ _ (by simp [State.inputsLeft, hrst])
  · refine observationLess_of_agent hrst ((engineStep_rst _).trans hrst) (engineStep_turns _) fun hnil => ?_
    exact left_lt_of_engineStep (runInv_popTurn h) hrst
      (State.hostEnabled_of_mover_engine (s := s) hdue hrst hnil hm) hat
  · obtain ⟨_, hpending, _⟩ := s.cmdReady_iff.mp hready
    have hci := State.ci_lt_of_offeredWord hw
    obtain ⟨i, _, hexec⟩ | ⟨_, rfl⟩ := hhost
    · obtain ⟨_, _, _, rfl⟩ := exec_frame hexec
      exact observationLess_of_agent hrst hrst rfl fun _ => .inl (wordsLeft_lt_of_word hpending hci rfl rfl)
    · exact observationLess_of_agent hrst hrst rfl fun _ => .inl (wordsLeft_lt_of_word hpending hci rfl rfl)

/-! ## The first state at the observation point -/

/-- The run from `s` is first at the observation point after `n` steps, in `t`, and that is what the search finds. -/
structure FirstObservation (s : State) (n : Nat) (t : State) : Prop where
  run : Host.Core.run Sys2Proof.core n s = .next t
  at_point : t.atObservationPoint = true
  first : ∀ k u, k < n → Host.Core.run Sys2Proof.core k s = .next u → u.atObservationPoint = false
  found : ∀ m, n ≤ m → observationPoint m s = some t

theorem coreRun_succ {M : Host.Core} {s t : M.State} (n : Nat) (h : M.step s = .next t) :
    M.run (n + 1) s = M.run n t := by simp only [Host.Core.run, h]

theorem firstObservation_zero {s : State} (h : s.atObservationPoint = true) : FirstObservation s 0 s :=
  ⟨rfl, h, fun k _ hk => absurd hk (Nat.not_lt_zero k), fun m _ => observationPoint_of_at m h⟩

theorem firstObservation_succ {s t u : State} {n : Nat} (hat : s.atObservationPoint = false) (hstep : step s = .next t)
    (h : FirstObservation t n u) : FirstObservation s (n + 1) u where
  run := (coreRun_succ (M := Sys2Proof.core) n hstep).trans h.run
  at_point := h.at_point
  first := by
    intro k v hk hrun
    cases k with
    | zero => rwa [← Host.Outcome.next.inj hrun]
    | succ k => exact h.first k v (by omega) ((coreRun_succ (M := Sys2Proof.core) k hstep).symm.trans hrun)
  found := by
    intro m hm
    obtain ⟨m, rfl⟩ := Nat.exists_eq_add_of_le' (Nat.le_trans (Nat.succ_pos n) hm)
    rw [observationPoint_succ m hat hstep]
    exact h.found m (by omega)

/-- Every valid run reaches its observation point: what is left before it is counted down. -/
theorem exists_firstObservation {s : State} (h : RunInv s) : ∃ n t, FirstObservation s n t := by
  cases hat : s.atObservationPoint with
  | true => exact ⟨0, s, firstObservation_zero hat⟩
  | false =>
    obtain ⟨t, hstep⟩ := exists_step_of_runInv h
    have hless : ObservationLess t.observationLeft s.observationLeft := observationLess_of_step h hat hstep
    obtain ⟨n, u, hfirst⟩ := exists_firstObservation (runInv_step h hstep)
    exact ⟨n + 1, u, firstObservation_succ hat hstep hfirst⟩
termination_by s.observationLeft
decreasing_by exact hless

theorem atObservationPoint_of_not_valid {s : State} (hv : s.cfg.valid = false) (h : s = s.afterReset) :
    s.atObservationPoint = false := by simp [State.atObservationPoint, phase_of_not_valid hv h]

/-- The halted reset state of an invalid configuration is at no observation point, and its steps come back to it
(R138). -/
theorem observationPoint_eq_none_of_not_valid (n : Nat) {s : State} (hv : s.cfg.valid = false) (h : s = s.afterReset) :
    observationPoint n s = none := by
  induction n generalizing s with
  | zero => simp [observationPoint, atObservationPoint_of_not_valid hv h]
  | succ n ih =>
    have hat := atObservationPoint_of_not_valid hv h
    cases hstep : step s with
    | next t =>
      rw [observationPoint_succ n hat hstep]
      exact ih (step_cfg hstep ▸ hv) (eq_afterReset_of_step_of_not_valid hv h hstep)
    | fault r => simp [observationPoint, hat, hstep]
    | refused r => simp [observationPoint, hat, hstep]

/-- Settles O55: a run counts down to its observation point, and `CFG_HALT` is at none. -/
theorem observationPointIsReached : Obligations.ObservationPointIsReached := by
  unfold Obligations.ObservationPointIsReached
  refine ⟨fun s h => ?_, fun c p ts n hv => observationPoint_eq_none_of_not_valid n hv rfl⟩
  obtain ⟨n, t, hfirst⟩ := exists_firstObservation h
  obtain ⟨hci, hpending, hphase, hrow⟩ := t.atObservationPoint_iff.mp hfirst.at_point
  exact ⟨n, t, hfirst.run, hci, hpending, hphase, hrow, hfirst.first, hfirst.found⟩

end Sys2Proof.Machine
end
